-- ==== Sys2Proof/Word.lean ====
section
/-! DEFINITION. The word types of the soft-UART receiver (spec/00_scope.md R4, R5): every value of the block is
unsigned, and each type is named for what the spec calls it. -/

namespace Sys2Proof

/-- A byte of memory, and the decoded data byte. -/
abbrev Byte := BitVec 8

/-- A 16-bit word of the ring region (spec/20_memory.md R40, R45). -/
abbrev Half := BitVec 16

/-- A tick value, TICK_W = 32 bits (spec/00_scope.md R4). -/
abbrev Tick := BitVec 32

/-- A byte address in the 32-bit address space (spec/20_memory.md R42). -/
abbrev Addr := BitVec 32

end Sys2Proof
end

