-- ==== Sys2Proof/Config.lean ====
section
/-! DEFINITION. What is fixed for one block (the record `Config` of spec/00_scope.md R4), what the environment presents to
one step (spec/10_state.md R19, spec/60_exceptions.md R181), and the free values. Every numeric field of `Config` is a
natural number, wide enough to hold the illegal values that BOOT.CFG refuses. -/

namespace Sys2Proof

/-- One ring entry (spec/30_encoding.md R67). -/
structure RingEntry where
  value : Half
  payload : Half
deriving DecidableEq, Repr, Inhabited

/-- The configuration record (spec/00_scope.md R4). It is a parameter of the step, not state (spec/10_state.md R10):
`State` carries it in a field that nothing writes. -/
structure Config where
  /-- `BAUD` -/
  baud : Nat
  /-- `TICK_HZ`: ticks per second -/
  tickHz : Nat
  /-- `OFFSET[0..10]`, the timing table (spec/10_state.md R16, spec/40_timing_scheduler.md R80) -/
  offsets : List Nat
  /-- `IDLE_THRESHOLD` -/
  idleThreshold : Nat
  /-- `START_THRESHOLD` -/
  startThreshold : Nat
  /-- `LATENCY_COMP`, in ticks -/
  latencyComp : Nat
  /-- `INTERVAL_SCALE` -/
  intervalScale : Nat
  /-- `INDICATOR_PERIOD`, in valid bytes -/
  indicatorPeriod : Nat
  /-- `LINK_SENTINEL` -/
  linkSentinel : Nat
  /-- `RING_N`, the ring's capacity in entries -/
  ringN : Nat
  /-- `RING_BASE`, a byte address -/
  ringBase : Nat
  /-- `DIAG[0]` -/
  diag0 : RingEntry
  /-- `DIAG[1]` -/
  diag1 : RingEntry
  /-- `DIAG[2]` -/
  diag2 : RingEntry
  /-- `PREV_RESET`: 1 is `true` -/
  prevReset : Bool
  /-- `LAST_BYTE_TICK_RESET` -/
  lastByteTickReset : Tick
deriving DecidableEq, Repr

/-- The reference configuration `REF` (spec/95_test_vectors.md section 0), one legal `Config`. DESIGN CHOICE as the
configuration of `State.reset` (DESIGN CHOICE, log entry 2): none of its OPEN values is the original hardware's. -/
def Config.reference : Config where
  baud := 115200
  tickHz := 200000000
  offsets := [868, 2604, 4340, 6076, 7812, 9548, 11284, 13020, 14756, 16493, 18229]
  idleThreshold := 21000
  startThreshold := 4
  latencyComp := 300
  intervalScale := 200
  indicatorPeriod := 50
  linkSentinel := 100000
  ringN := 16
  ringBase := 0
  diag0 := ⟨0xD1A6, 1⟩
  diag1 := ⟨0xD1A6, 2⟩
  diag2 := ⟨0xD1A6, 3⟩
  prevReset := false
  lastByteTickReset := 0

/-- A 16-bit write to memory by an agent other than the block (spec/20_memory.md R45, R49); an odd address is admitted
(DESIGN CHOICE, log entry 27). -/
structure AgentWrite where
  addr : Addr
  data : Half
deriving DecidableEq, Repr, Inhabited

/-- What the environment presents to one step of the block: the three input ports, the reset input, and what other agents
wrote to memory since the last step. -/
structure Input where
  /-- `TICK` (spec/60_exceptions.md R182) -/
  tick : Tick
  /-- `LINE_IN`: `true` is logical-high (spec/41_bit_sampler.md R92) -/
  line : Bool
  /-- `SHUTDOWN_REQ` (spec/60_exceptions.md R173) -/
  shutdown : Bool
  /-- the reset input (spec/70_reset_and_hazards.md R190) -/
  reset : Bool
  /-- writes by the consumer or another bus master, in order (spec/20_memory.md R49) -/
  agentWrites : List AgentWrite
deriving DecidableEq, Repr, Inhabited

/-- FREE VALUE: the input of step number `n` when no input is listed in `State.inputs`. Nothing constrains it
(spec/41_bit_sampler.md R91; DESIGN CHOICE, log entry 1). -/
opaque Config.freeInput : Nat → Input

/-- FREE VALUE: the quotient of a division by an INTERVAL_SCALE of 0, which only an illegal `Config` has
(spec/60_exceptions.md R171; DESIGN CHOICE, log entry 17). -/
opaque Config.quotientByZero : Tick → Nat

/-- FREE VALUE: the index step modulo a RING_N of 0, which only an illegal `Config` has
(spec/60_exceptions.md R171; DESIGN CHOICE, log entry 17). -/
opaque Config.indexModZero : Half → Half

end Sys2Proof
end

