-- ==== Sys2Proof/Machine/Legality.lean ====
section
/-! DEFINITION. When a `Config` is legal: every constraint of spec/00_scope.md R4, the legal timing table of
spec/40_timing_scheduler.md R81, and the list of spec/60_exceptions.md R171. -/

namespace Sys2Proof

/-- The reason of `refuse Config(reason)` (spec/60_exceptions.md R171), one per constraint. -/
inductive ConfigError where
  /-- BAUD is not one of 19200, 57600, 115200, 125000 -/
  | unsupportedBaud
  /-- TICK_HZ is not positive -/
  | tickHzZero
  /-- the timing table has not exactly 11 entries (R81 a) -/
  | tableLength
  /-- an entry of the timing table is 2^32 or more (R81 b) -/
  | tableWidth
  /-- the timing table is not strictly increasing (R81 c) -/
  | tableOrder
  /-- OFFSET[9] is not below 10 bit periods (R81 d) -/
  | tableSpan
  | idleThresholdZero
  | startThresholdZero
  /-- LATENCY_COMP is 2^32 or more -/
  | latencyCompWidth
  | intervalScaleZero
  | indicatorPeriodZero
  /-- LINK_SENTINEL is 2^32 or more -/
  | linkSentinelWidth
  /-- RING_N is outside 4 to 65536 -/
  | ringCapacity
  /-- RING_BASE is not a multiple of 4 -/
  | ringBaseAlignment
  /-- the ring region ends past the 32-bit address space (spec/20_memory.md R42) -/
  | ringRegionEnd
deriving DecidableEq, Repr

/-- Each entry is below the next (spec/40_timing_scheduler.md R81 c). -/
def strictlyIncreasing : List Nat → Bool
  | [] => true
  | [_] => true
  | a :: b :: rest => decide (a < b) && strictlyIncreasing (b :: rest)

/-- `OFFSET[9] < 10 × TICK_HZ / BAUD`, the quotient being rational: compared after multiplying by BAUD
(spec/40_timing_scheduler.md R81 d; DEDUCED, log entry 20). -/
def Config.tableSpanOk (c : Config) : Bool :=
  match c.offsets[9]? with
  | some o => decide (o * c.baud < 10 * c.tickHz)
  | none => false

/-- Every constraint with the reason that names its violation. TICK_HZ, LATENCY_COMP and LINK_SENTINEL are checked although
spec/60_exceptions.md R171 does not list them (DEDUCED, log entry 24). -/
def Config.constraints (c : Config) : List (Bool × ConfigError) :=
  [ (c.baud == 19200 || c.baud == 57600 || c.baud == 115200 || c.baud == 125000, .unsupportedBaud),
    (decide (1 ≤ c.tickHz), .tickHzZero),
    (c.offsets.length == 11, .tableLength),
    (c.offsets.all (fun o => decide (o < 2 ^ 32)), .tableWidth),
    (strictlyIncreasing c.offsets, .tableOrder),
    (c.tableSpanOk, .tableSpan),
    (decide (1 ≤ c.idleThreshold), .idleThresholdZero),
    (decide (1 ≤ c.startThreshold), .startThresholdZero),
    (decide (c.latencyComp < 2 ^ 32), .latencyCompWidth),
    (decide (1 ≤ c.intervalScale), .intervalScaleZero),
    (decide (1 ≤ c.indicatorPeriod), .indicatorPeriodZero),
    (decide (c.linkSentinel < 2 ^ 32), .linkSentinelWidth),
    (decide (4 ≤ c.ringN) && decide (c.ringN ≤ 65536), .ringCapacity),
    (c.ringBase % 4 == 0, .ringBaseAlignment),
    (decide (c.ringBase + 4 + 4 * c.ringN ≤ 2 ^ 32), .ringRegionEnd) ]

/-- The reasons for which BOOT.CFG refuses this `Config`. -/
def Config.violations (c : Config) : List ConfigError :=
  (c.constraints.filter (fun p => !p.1)).map Prod.snd

/-- A `Config` is legal when no constraint is violated (spec/00_scope.md R4). -/
def Config.isLegal (c : Config) : Bool := c.violations.isEmpty

end Sys2Proof
end

