-- ==== Sys2Proof/Syntax.lean ====
section
/-! DEFINITION. The operations of the block, one constructor per row of spec/opcode_table.json. The block has no
instruction stream: an operation is one arm of its transition (spec/30_encoding.md R60). -/

namespace Sys2Proof

/-- The three formats of spec/30_encoding.md R60. -/
inductive Format where
  /-- the FSM operation of an iteration, selected by the 8-bit word SEL -/
  | step
  /-- the shutdown check at the end of an iteration, selected by the 1-bit word `shut` -/
  | halt
  /-- a start-up micro-operation, selected by the 3-bit index `bseq` -/
  | boot
deriving DecidableEq, Repr

/-- The operations. The only operand an operation carries is the sampled bit `c` of DATA.BIT and DATA.LAST; every other bit
outside a row's mask has no effect (spec/30_encoding.md R63; DESIGN CHOICE, log entry 12). -/
inductive Instr where
  | idleClr
  | idleCnt
  | idleArm
  | awaitAge
  | awaitCnt
  | awaitEdge
  | confWait
  | confOk
  | confFalse
  | dataWait
  | dataBit (c : Bool)
  | dataLast (c : Bool)
  | stopWait
  | stopInvalid
  | stopValid
  /-- RSVD.RESET, the row of state code 5 -/
  | rsvdReset5
  /-- RSVD.RESET, the row of state codes 6 and 7 -/
  | rsvdReset67
  | haltCont
  | haltStop
  | bootCfg
  | bootHead
  | bootTail
  | bootDiag0
  | bootDiag1
  | bootDiag2
  | bootRun
deriving DecidableEq, Repr

/-- The format of an operation (the `format` column of spec/opcode_table.json). -/
def Instr.format : Instr → Format
  | .idleClr => .step
  | .idleCnt => .step
  | .idleArm => .step
  | .awaitAge => .step
  | .awaitCnt => .step
  | .awaitEdge => .step
  | .confWait => .step
  | .confOk => .step
  | .confFalse => .step
  | .dataWait => .step
  | .dataBit _ => .step
  | .dataLast _ => .step
  | .stopWait => .step
  | .stopInvalid => .step
  | .stopValid => .step
  | .rsvdReset5 => .step
  | .rsvdReset67 => .step
  | .haltCont => .halt
  | .haltStop => .halt
  | .bootCfg => .boot
  | .bootHead => .boot
  | .bootTail => .boot
  | .bootDiag0 => .boot
  | .bootDiag1 => .boot
  | .bootDiag2 => .boot
  | .bootRun => .boot

end Sys2Proof
end

