-- ==== Sys2Proof/WellFormed.lean ====
section
/-! DEFINITION. Well-formed terms: operations and configurations. -/

namespace Sys2Proof

/-- Every operation is well-formed: its only operand is one bit, and both values of that bit have an encoding
(spec/30_encoding.md R63). -/
def Instr.wellFormed : Instr → Bool
  | .idleClr => true
  | .idleCnt => true
  | .idleArm => true
  | .awaitAge => true
  | .awaitCnt => true
  | .awaitEdge => true
  | .confWait => true
  | .confOk => true
  | .confFalse => true
  | .dataWait => true
  | .dataBit _ => true
  | .dataLast _ => true
  | .stopWait => true
  | .stopInvalid => true
  | .stopValid => true
  | .rsvdReset5 => true
  | .rsvdReset67 => true
  | .haltCont => true
  | .haltStop => true
  | .bootCfg => true
  | .bootHead => true
  | .bootTail => true
  | .bootDiag0 => true
  | .bootDiag1 => true
  | .bootDiag2 => true
  | .bootRun => true

/-- A well-formed configuration is a legal one (spec/00_scope.md R4): the check BOOT.CFG makes. -/
def Config.wellFormed (c : Config) : Bool := c.isLegal

end Sys2Proof
end

