-- ==== Sys2Proof/Decode.lean ====
section
/-! DEFINITION. From selector words to operations and back (spec/30_encoding.md R61 to R65). A selector is the word of one
of the three formats; decoding is total and refuses the one reserved word by name. -/

namespace Sys2Proof

/-- A selector word, of the width its format has (spec/30_encoding.md R61, R64, R65). -/
inductive Selector where
  | step (sel : BitVec 8)
  | halt (shut : BitVec 1)
  | boot (bseq : BitVec 3)
deriving DecidableEq, Repr

/-- The format a selector belongs to. -/
def Selector.format : Selector → Format
  | .step _ => .step
  | .halt _ => .halt
  | .boot _ => .boot

/-- The word of a selector as a number. -/
def Selector.word : Selector → Nat
  | .step sel => sel.toNat
  | .halt shut => shut.toNat
  | .boot bseq => bseq.toNat

/-- Why a selector names no operation. -/
inductive DecodeError where
  /-- `bseq = 7` (spec/30_encoding.md R69 b) -/
  | reservedBootIndex
  /-- no row of the STEP table matches; no SEL word is such (R63: every one of the 256 matches one row) -/
  | noStepRow
deriving DecidableEq, Repr

/-- One row of the STEP operation map: an operation is selected when `SEL & mask = match`
(spec/30_encoding.md R63). -/
structure StepRow where
  mask : BitVec 8
  pattern : BitVec 8
  make : BitVec 8 → Instr

/-- Field `c` of SEL, bit 1 (spec/30_encoding.md R61). -/
def selC (sel : BitVec 8) : Bool := sel.getLsbD 1

/-- The STEP operation map, rows in the order of spec/30_encoding.md R63. -/
def stepRows : List StepRow :=
  [ ⟨0xF0, 0x00, fun _ => .idleClr⟩,
    ⟨0xF8, 0x10, fun _ => .idleCnt⟩,
    ⟨0xF8, 0x18, fun _ => .idleArm⟩,
    ⟨0xF0, 0x20, fun _ => .awaitAge⟩,
    ⟨0xF8, 0x30, fun _ => .awaitCnt⟩,
    ⟨0xF8, 0x38, fun _ => .awaitEdge⟩,
    ⟨0xE4, 0x40, fun _ => .confWait⟩,
    ⟨0xE6, 0x44, fun _ => .confOk⟩,
    ⟨0xE6, 0x46, fun _ => .confFalse⟩,
    ⟨0xE4, 0x60, fun _ => .dataWait⟩,
    ⟨0xE5, 0x64, fun sel => .dataBit (selC sel)⟩,
    ⟨0xE5, 0x65, fun sel => .dataLast (selC sel)⟩,
    ⟨0xE4, 0x80, fun _ => .stopWait⟩,
    ⟨0xE6, 0x84, fun _ => .stopInvalid⟩,
    ⟨0xE6, 0x86, fun _ => .stopValid⟩,
    ⟨0xE0, 0xA0, fun _ => .rsvdReset5⟩,
    ⟨0xC0, 0xC0, fun _ => .rsvdReset67⟩ ]

/-- A row matches a word (spec/30_encoding.md R63). -/
def StepRow.matches (r : StepRow) (sel : BitVec 8) : Bool := (sel &&& r.mask) == r.pattern

/-- The STEP operation a SEL word selects. -/
def decodeStep (sel : BitVec 8) : Except DecodeError Instr :=
  match stepRows.find? (fun r => r.matches sel) with
  | some r => .ok (r.make sel)
  | none => .error .noStepRow

/-- The HALT operation `shut` selects (spec/30_encoding.md R64). -/
def decodeHalt (shut : BitVec 1) : Except DecodeError Instr :=
  if shut = 0 then .ok .haltCont else .ok .haltStop

/-- The BOOT operation `bseq` selects (spec/30_encoding.md R65); 7 is reserved (R69 b). -/
def decodeBoot (bseq : BitVec 3) : Except DecodeError Instr :=
  match bseq.toNat with
  | 0 => .ok .bootCfg
  | 1 => .ok .bootHead
  | 2 => .ok .bootTail
  | 3 => .ok .bootDiag0
  | 4 => .ok .bootDiag1
  | 5 => .ok .bootDiag2
  | 6 => .ok .bootRun
  | _ => .error .reservedBootIndex

/-- The operation a selector names. -/
def decode : Selector → Except DecodeError Instr
  | .step sel => decodeStep sel
  | .halt shut => decodeHalt shut
  | .boot bseq => decodeBoot bseq

/-- `word` with bit `c` placed in field `c`, bit 1 of SEL. -/
def withC (word : BitVec 8) (c : Bool) : BitVec 8 := if c then word ||| 0x02 else word

/-- The selector of an operation, written from the tables of spec/30_encoding.md R63 to R65: the match value, the operand
bit in its place, every bit outside the mask 0. -/
def encode : Instr → Selector
  | .idleClr => .step 0x00
  | .idleCnt => .step 0x10
  | .idleArm => .step 0x18
  | .awaitAge => .step 0x20
  | .awaitCnt => .step 0x30
  | .awaitEdge => .step 0x38
  | .confWait => .step 0x40
  | .confOk => .step 0x44
  | .confFalse => .step 0x46
  | .dataWait => .step 0x60
  | .dataBit c => .step (withC 0x64 c)
  | .dataLast c => .step (withC 0x65 c)
  | .stopWait => .step 0x80
  | .stopInvalid => .step 0x84
  | .stopValid => .step 0x86
  | .rsvdReset5 => .step 0xA0
  | .rsvdReset67 => .step 0xC0
  | .haltCont => .halt 0
  | .haltStop => .halt 1
  | .bootCfg => .boot 0
  | .bootHead => .boot 1
  | .bootTail => .boot 2
  | .bootDiag0 => .boot 3
  | .bootDiag1 => .boot 4
  | .bootDiag2 => .boot 5
  | .bootRun => .boot 6

/-- The bits of the selector that pick the operation (the `mask` column of spec/30_encoding.md R63; all of the selector in
the HALT and BOOT formats). -/
def Instr.mask : Instr → Nat
  | .idleClr => 0xF0
  | .idleCnt => 0xF8
  | .idleArm => 0xF8
  | .awaitAge => 0xF0
  | .awaitCnt => 0xF8
  | .awaitEdge => 0xF8
  | .confWait => 0xE4
  | .confOk => 0xE6
  | .confFalse => 0xE6
  | .dataWait => 0xE4
  | .dataBit _ => 0xE5
  | .dataLast _ => 0xE5
  | .stopWait => 0xE4
  | .stopInvalid => 0xE6
  | .stopValid => 0xE6
  | .rsvdReset5 => 0xE0
  | .rsvdReset67 => 0xC0
  | .haltCont => 0x1
  | .haltStop => 0x1
  | .bootCfg => 0x7
  | .bootHead => 0x7
  | .bootTail => 0x7
  | .bootDiag0 => 0x7
  | .bootDiag1 => 0x7
  | .bootDiag2 => 0x7
  | .bootRun => 0x7

/-- The bits of the selector that hold an operand: field `c` of DATA.BIT and DATA.LAST (spec/30_encoding.md R63). -/
def Instr.operandMask : Instr → Nat
  | .idleClr => 0
  | .idleCnt => 0
  | .idleArm => 0
  | .awaitAge => 0
  | .awaitCnt => 0
  | .awaitEdge => 0
  | .confWait => 0
  | .confOk => 0
  | .confFalse => 0
  | .dataWait => 0
  | .dataBit _ => 0x02
  | .dataLast _ => 0x02
  | .stopWait => 0
  | .stopInvalid => 0
  | .stopValid => 0
  | .rsvdReset5 => 0
  | .rsvdReset67 => 0
  | .haltCont => 0
  | .haltStop => 0
  | .bootCfg => 0
  | .bootHead => 0
  | .bootTail => 0
  | .bootDiag0 => 0
  | .bootDiag1 => 0
  | .bootDiag2 => 0
  | .bootRun => 0

/-- The selector that a word of `nbits` bits is. The format is told by the width alone (30_encoding R61, R64, R65: 8, 1 and
3 bits); a width that no format has, or a word too large for its width, is no selector (DESIGN CHOICE, log entry 13). -/
def selectorOfBits (nbits w : Nat) : Option Selector :=
  if w < 2 ^ nbits then
    match nbits with
    | 1 => some (.halt (BitVec.ofNat 1 w))
    | 3 => some (.boot (BitVec.ofNat 3 w))
    | 8 => some (.step (BitVec.ofNat 8 w))
    | _ => none
  else none

/-- The operation the decoder reads from a table word of `nbits` bits. -/
def decodeTableWord (nbits w : Nat) : Option Instr :=
  match selectorOfBits nbits w with
  | some sel =>
    match decode sel with
    | .ok i => some i
    | .error _ => none
  | none => none

end Sys2Proof
end

