-- ==== Sys2Proof/Machine/State.lean ====
section
/-! DEFINITION. The state of the block as plain data (spec/10_state.md R10 to R23), the reasons a step can stop, and the
state after reset. INVENTORY.md lists every field with its rule and its reset value. -/

namespace Sys2Proof.Machine

open Sys2Proof

/-- The run phase (spec/10_state.md R12). -/
inductive Phase where
  | boot
  | run
  | halted
  | cfgFault
deriving DecidableEq, Repr

/-- The decoder state, a 3-bit register: the five variants of spec/10_state.md R11 and the three reserved codes of
spec/30_encoding.md R69, kept so that RSVD.RESET has a state to run in (DESIGN CHOICE, log entry 11). -/
inductive DecoderState where
  | idle
  | await
  | confirm
  | data
  | stop
  | rsvd5
  | rsvd6
  | rsvd7
deriving DecidableEq, Repr

/-- What the block drives on its two event-like outputs: a beat of the ring write port (spec/20_memory.md R44) or the
completion signal (spec/46_shutdown.md R162). -/
inductive Event where
  /-- one beat of `ring_we`, `ring_addr`, `ring_wdata` -/
  | ringWrite (addr : Addr) (data : Half)
  /-- `emit COMPLETE` -/
  | complete
deriving DecidableEq, Repr

/-- Memory: (address, byte) pairs, addresses strictly rising. An address not listed has never been written. -/
abbrev Memory := List Host.Cell

/-- Why the machine stops: it never does. No rule raises a fault (spec/60_exceptions.md R170), so no reason exists. -/
inductive Fault where
deriving DecidableEq, Repr

/-- Why the model gives no next state. -/
inductive Refusal where
  /-- Raised by an arm of `exec` without a meaning. SAFE. -/
  | notModelled (mnemonic : String)
  /-- Raised by the step when the selector is reserved: `bseq = 7`, never reached (spec/30_encoding.md R69 b;
  spec/93_implementation_defined.md Q9). SAFE (DEDUCED, log entry 15). -/
  | reservedSelector (why : DecodeError)
deriving DecidableEq, Repr

/-- The state. -/
@[ext]
structure State where
  /-- the configuration, written by nothing (spec/10_state.md R10, R16) -/
  cfg : Config
  /-- the run phase (spec/10_state.md R12) -/
  phase : Phase
  /-- the start-up sequence index (spec/30_encoding.md R65) -/
  bseq : BitVec 3
  /-- the decoder state (spec/10_state.md R11) -/
  st : DecoderState
  /-- the line read of the previous iteration (spec/10_state.md R13) -/
  prev : Bool
  /-- debounce counter of Idle (spec/10_state.md R13, R15) -/
  idleCnt : BitVec 32
  /-- debounce counter of AwaitingStart (spec/10_state.md R13, R15) -/
  lowCnt : BitVec 32
  /-- compensated tick of the detected start (spec/10_state.md R13, R14) -/
  startTick : Tick
  /-- the data bits so far (spec/10_state.md R13, R14) -/
  dataByte : Byte
  /-- index of the next data bit, 1 to 8, then 9 (spec/10_state.md R13, R14) -/
  bitIndex : BitVec 4
  /-- mask of the next data bit (spec/10_state.md R13, R14) -/
  bitMask : Half
  /-- tick of the last valid stop sample (spec/10_state.md R13) -/
  lastByteTick : Tick
  /-- link-activity countdown (spec/10_state.md R17) -/
  linkCountdown : BitVec 32
  /-- valid bytes since the last toggle (spec/10_state.md R17) -/
  byteCounter : BitVec 8
  /-- the level of INDICATOR_OUT (spec/10_state.md R17, R19) -/
  indicator : Bool
  /-- index of the next ring slot to write (spec/44_ring_write.md R141) -/
  tail : Half
  /-- the memory of the ring region (spec/20_memory.md R40) -/
  mem : Memory
  /-- everything driven on the ring write port and COMPLETE since reset, oldest first (DESIGN CHOICE, log entry 10) -/
  events : List Event
  /-- this iteration's read of TICK (spec/41_bit_sampler.md R90) -/
  now : Tick
  /-- this iteration's read of LINE_IN (spec/41_bit_sampler.md R92) -/
  cur : Bool
  /-- this iteration's read of SHUTDOWN_REQ (spec/46_shutdown.md R160) -/
  shut : Bool
  /-- MODEL's own: the inputs still to come, next first (DESIGN CHOICE, log entry 1) -/
  inputs : List Input
  /-- MODEL's own: how many inputs have been taken (DESIGN CHOICE, log entry 1) -/
  inputIdx : Nat
deriving DecidableEq, Repr

/-- The state right after reset of a block configured by `c` (spec/10_state.md R23): every claim about reset can be made for
every configuration. `prev`: DESIGN CHOICE, log entry 3; `lastByteTick`: DESIGN CHOICE, log entry 4; `tail`, `now`, `cur`,
`shut`: DESIGN CHOICE, log entry 5; `inputs`, `inputIdx`: DESIGN CHOICE, log entry 1. -/
def State.resetWith (c : Config) : State where
  cfg := c
  phase := .boot
  bseq := 0
  st := .idle
  prev := c.prevReset
  idleCnt := 0
  lowCnt := 0
  startTick := 0
  dataByte := 0
  bitIndex := 1
  bitMask := 1
  lastByteTick := c.lastByteTickReset
  linkCountdown := 0
  byteCounter := 0
  indicator := false
  tail := 0
  mem := []
  events := []
  now := 0
  cur := false
  shut := false
  inputs := []
  inputIdx := 0

/-- The machine right after reset, with the reference configuration (DESIGN CHOICE, log entry 2). -/
def State.reset : State := State.resetWith Config.reference

/-- What a step or a meaning answers. -/
abbrev Result := Host.Outcome State Fault Refusal

end Sys2Proof.Machine
end

