-- ==== Sys2Proof/Machine/Operands.lean ====
section
/-! DEFINITION. The arithmetic primitives of spec/00_scope.md R5 and every operand the operations read
(spec/30_encoding.md R68): constants of the configuration as register values, elapsed ticks, the interval, the payload,
and the addresses of the ring region. -/

namespace Sys2Proof.Machine

open Sys2Proof

/-- `sub32`: the difference of two tick values modulo 2^32 (spec/00_scope.md R5). -/
def sub32 (a b : Tick) : Tick := a - b

/-- `trunc_16` (spec/00_scope.md R5). -/
def trunc16 (v : Nat) : Half := BitVec.ofNat 16 v

/-- `zext_16` (spec/00_scope.md R5). -/
def zext16 (b : Byte) : Half := b.setWidth 16

/-- `shl(v, 1)` on 16 bits (spec/00_scope.md R5). -/
def shl1 (v : Half) : Half := v <<< 1

/-- `satdec`: one less, and 0 stays 0 (spec/00_scope.md R5). -/
def satdec (v : BitVec 32) : BitVec 32 := if v = 0 then 0 else v - 1

/-- `udiv`: the floor of the quotient for a divisor of at least 1 (spec/00_scope.md R5). A divisor of 0 exists only in an
illegal `Config`; its quotient is a free value (DESIGN CHOICE, log entry 17). -/
def udiv (a : Tick) (b : Nat) : Nat := if b = 0 then Config.quotientByZero a else a.toNat / b

/-- `incmod`: the next index modulo `n` (spec/00_scope.md R5). `n = 0` exists only in an illegal `Config`; the index is
then a free value (DESIGN CHOICE, log entry 17). For an illegal `n` above 65536 the index is cut to its low 16 bits, so that
65535 steps to 0 (DESIGN CHOICE, log entry 26); an illegal `n` of 1 to 3 is used as it is (DESIGN CHOICE, log entry 28). -/
def incmod (v : Half) (n : Nat) : Half :=
  if n = 0 then Config.indexModZero v else BitVec.ofNat 16 ((v.toNat + 1) % n)

/-- LATENCY_COMP as a tick value (spec/42_frame_alignment.md R105); the low 32 bits of an illegal one of 2^32 or more
(DESIGN CHOICE, log entry 26). -/
def latencyTicks (c : Config) : Tick := BitVec.ofNat 32 c.latencyComp

/-- LINK_SENTINEL as a register value (spec/45_link_indicator.md R152); the low 32 bits of an illegal one of 2^32 or more
(DESIGN CHOICE, log entry 26). -/
def sentinelCount (c : Config) : BitVec 32 := BitVec.ofNat 32 c.linkSentinel

/-- `elapsed = sub32(now, startTick)` (spec/40_timing_scheduler.md R83). -/
def elapsed (s : State) : Tick := sub32 s.now s.startTick

/-- The entry `OFFSET[k]` of the timing table (spec/10_state.md R16). -/
def offset? (c : Config) (k : Nat) : Option Nat := c.offsets[k]?

/-- Which entry the current state compares with (spec/40_timing_scheduler.md R84, R85): none in IDLE, AWAIT and the
reserved states. In DATA it is `bitIndex` whatever that holds: for 0, 9 and 10, which
no run reaches there, that is spec/30_encoding.md R61's formula read literally, although R85 gives those entries no reader in
DATA (DEDUCED, log entry 29). -/
def dueIndex (s : State) : Option Nat :=
  match s.st with
  | .idle => none
  | .await => none
  | .confirm => some 0
  | .data => some s.bitIndex.toNat
  | .stop => some 9
  | .rsvd5 => none
  | .rsvd6 => none
  | .rsvd7 => none

/-- The value field of a valid frame (spec/44_ring_write.md R143). -/
def interval (s : State) : Half := trunc16 (udiv (sub32 s.now s.lastByteTick) s.cfg.intervalScale)

/-- The payload field (spec/44_ring_write.md R144). -/
def payload (s : State) : Half := zext16 s.dataByte

/-- An address computed from the configuration, in the 32-bit address space (spec/20_memory.md R42); the low
32 bits if an illegal one exceeds it (DESIGN CHOICE, log entry 25). -/
def toAddr (a : Nat) : Addr := BitVec.ofNat 32 a

/-- `HEAD_ADDR` (spec/20_memory.md R42). -/
def headAddr (c : Config) : Addr := toAddr c.ringBase

/-- `TAIL_ADDR` (spec/20_memory.md R42). -/
def tailAddr (c : Config) : Addr := toAddr (c.ringBase + 2)

/-- `VALUE_ADDR(k)` (spec/20_memory.md R42). -/
def valueAddr (c : Config) (k : Half) : Addr := toAddr (c.ringBase + 4 + 4 * k.toNat)

/-- `PAYLOAD_ADDR(k)` (spec/20_memory.md R42). -/
def payloadAddr (c : Config) (k : Half) : Addr := toAddr (c.ringBase + 6 + 4 * k.toNat)

end Sys2Proof.Machine
end

