-- ==== Sys2Proof/Machine/Flags.lean ====
section
/-! DEFINITION. The block stores no flags (spec/10_state.md R18). What stands here are the five combinational predicates
`m`, `h`, `d`, `c`, `l` and the selector SEL they are packed into (spec/30_encoding.md R61), and the numeric codes of `st`
and `phase`. -/

namespace Sys2Proof.Machine

open Sys2Proof

/-- The 3-bit code of `st` (spec/30_encoding.md R62). -/
def DecoderState.code : DecoderState → BitVec 3
  | .idle => 0
  | .await => 1
  | .confirm => 2
  | .data => 3
  | .stop => 4
  | .rsvd5 => 5
  | .rsvd6 => 6
  | .rsvd7 => 7

/-- The 2-bit code of `phase` (spec/10_state.md R12). -/
def Phase.code : Phase → BitVec 2
  | .boot => 0
  | .run => 1
  | .halted => 2
  | .cfgFault => 3

/-- The sample pair is HH: both reads high (spec/41_bit_sampler.md R94). -/
def pairHH (s : State) : Bool := s.prev && s.cur

/-- The sample pair is LL: both reads low (spec/41_bit_sampler.md R94). -/
def pairLL (s : State) : Bool := !s.prev && !s.cur

/-- `m`: the pair is the one the state waits for (spec/30_encoding.md R61). -/
def matchBit (s : State) : Bool :=
  match s.st with
  | .idle => pairHH s
  | .await => pairLL s
  | .confirm => false
  | .data => false
  | .stop => false
  | .rsvd5 => false
  | .rsvd6 => false
  | .rsvd7 => false

/-- `h`: one more match reaches the debounce threshold (spec/30_encoding.md R61). The sum is a number, so it does not
wrap. An illegal threshold of 0 is reached at once (DESIGN CHOICE, log entry 28). -/
def thresholdBit (s : State) : Bool :=
  match s.st with
  | .idle => decide (s.cfg.idleThreshold ≤ s.idleCnt.toNat + 1)
  | .await => decide (s.cfg.startThreshold ≤ s.lowCnt.toNat + 1)
  | .confirm => false
  | .data => false
  | .stop => false
  | .rsvd5 => false
  | .rsvd6 => false
  | .rsvd7 => false

/-- `d`: the sample is due (spec/30_encoding.md R61, spec/40_timing_scheduler.md R84). It is 0 outside the three states that
compare, and 0 where the table has no entry to compare with, since R61 makes it 1 only by a comparison
(DEDUCED, log entry 16). An illegal entry of 2^32 or more is compared uncut, so that its sample is never due
(DESIGN CHOICE, log entry 28); an illegal table of more than 11 entries is indexed as far as it goes (DESIGN CHOICE, log
entry 30). -/
def dueBit (s : State) : Bool :=
  match dueIndex s with
  | none => false
  | some k =>
    match offset? s.cfg k with
    | none => false
    | some o => decide (o ≤ (elapsed s).toNat)

/-- `l`: this is the eighth data bit (spec/30_encoding.md R61). -/
def lastBit (s : State) : Bool := s.st == .data && s.bitIndex == 8

/-- `SEL = st m h d c l`, `st` in bits 7 to 5 (spec/30_encoding.md R61). -/
def packSel (st : DecoderState) (m h d c l : Bool) : BitVec 8 :=
  st.code ++ BitVec.ofBool m ++ BitVec.ofBool h ++ BitVec.ofBool d ++ BitVec.ofBool c ++ BitVec.ofBool l

/-- The selector of this iteration, from the registers at its start and its reads (spec/30_encoding.md R61). -/
def sel (s : State) : BitVec 8 := packSel s.st (matchBit s) (thresholdBit s) (dueBit s) s.cur (lastBit s)

end Sys2Proof.Machine
end

