-- ==== Sys2Proof/Machine/Ops.lean ====
section
/-! DEFINITION. The named operations over memory and registers that the meanings share: memory by the byte and by the
16-bit word, `PUSH`, the debounced counters' and the accumulator's steps, the refusal of a configuration, the halt with its
completion signal (the only thing like taking an exception, spec/60_exceptions.md R177; there is no return from it, R178),
the reset, and the reads of an iteration. -/

namespace Sys2Proof.Machine

open Sys2Proof

/-- The canonical form: addresses strictly rising. No entry can equal what an unlisted address reads as, since that is no
value at all. The form is the model's own (DESIGN CHOICE, log entry 6). -/
abbrev Memory.wf (m : Memory) : Prop := m.Pairwise (fun x y => x.1 < y.1)

/-- The byte at an address; no value when nothing has written it (spec/10_state.md R23; DESIGN CHOICE, log entry 6). -/
def Memory.read : Memory → Nat → Option Byte
  | [], _ => none
  | (k, v) :: rest, a => if k = a then some v else Memory.read rest a

/-- Store one byte, keeping the addresses rising. -/
def Memory.write : Memory → Nat → Byte → Memory
  | [], a, b => [(a, b)]
  | (k, v) :: rest, a, b =>
    if a < k then (a, b) :: (k, v) :: rest
    else if a = k then (a, b) :: rest
    else (k, v) :: Memory.write rest a b

/-- The address after `a` in the 32-bit address space. -/
def nextAddr (a : Addr) : Addr := a + 1

/-- `MemRead(a, 2)`, little-endian (spec/20_memory.md R41): what the consumer reads. The block itself never reads
(R47). An odd address is read likewise (DESIGN CHOICE, log entry 27). No value when one of the two bytes has never been written. -/
def Memory.read16 (m : Memory) (a : Addr) : Option Half :=
  match Memory.read m a.toNat, Memory.read m (nextAddr a).toNat with
  | some lo, some hi => some (hi ++ lo)
  | _, _ => none

/-- `MemWrite(a, 2, v)` on memory, little-endian: bits 7 to 0 at `a`, bits 15 to 8 at the next address
(spec/20_memory.md R41). At an odd address, for which spec/20_memory.md R43 defines no behaviour, likewise: the bytes at `a`
and at the next address (DESIGN CHOICE, log entry 27). -/
def Memory.write16 (m : Memory) (a : Addr) (v : Half) : Memory :=
  Memory.write (Memory.write m a.toNat (v.extractLsb' 0 8)) (nextAddr a).toNat (v.extractLsb' 8 8)

/-- One beat of the ring write port: memory changes, and the beat is driven (spec/20_memory.md R44). -/
def memWrite16 (a : Addr) (v : Half) (s : State) : State :=
  { s with mem := Memory.write16 s.mem a v, events := s.events ++ [.ringWrite a v] }

/-- `PUSH(value, payload)`: value, payload, then the new tail, which publishes the entry (spec/44_ring_write.md R142,
spec/20_memory.md R46). It reads no memory and compares with no head (R51). -/
def push (value payload : Half) (s : State) : State :=
  let s1 := memWrite16 (valueAddr s.cfg s.tail) value s
  let s2 := memWrite16 (payloadAddr s.cfg s.tail) payload s1
  let newTail := incmod s.tail s.cfg.ringN
  memWrite16 (tailAddr s.cfg) newTail { s2 with tail := newTail }

/-- Sample one data bit into the accumulator (spec/43_accumulator.md R121, R122); an index of 15, which no run reaches, wraps
to 0 (DEDUCED, log entry 18). -/
def sampleDataBit (c : Bool) (s : State) : State :=
  { s with
    dataByte := if c then s.dataByte ||| s.bitMask.setWidth 8 else s.dataByte
    bitMask := shl1 s.bitMask
    bitIndex := s.bitIndex + 1 }

/-- Count a valid byte; every INDICATOR_PERIOD-th toggles the indicator (spec/45_link_indicator.md R153). A counter of
255 that does not reach the period wraps to 0 without a toggle: with a period above 256, and in states that no run reaches
with a smaller one (DEDUCED, log entry 18). An illegal period of 0 is never reached: the counter wraps at 256 and the indicator never
toggles (DESIGN CHOICE, log entry 28). -/
def countValidByte (s : State) : State :=
  if s.byteCounter.toNat + 1 = s.cfg.indicatorPeriod then
    { s with byteCounter := 0, indicator := !s.indicator }
  else
    { s with byteCounter := s.byteCounter + 1 }

/-- Back to Idle with both debounce counters cleared: the catch-all reset branch (spec/30_encoding.md R69). -/
def returnToIdle (s : State) : State := { s with st := .idle, idleCnt := 0, lowCnt := 0 }

/-- The start-up sequence goes on with the next index (spec/30_encoding.md R65; DESIGN CHOICE, log entry 21). -/
def advanceBoot (s : State) : State := { s with bseq := s.bseq + 1 }

/-- `refuse Config(reason)`: nothing is written but the phase (spec/60_exceptions.md R171). -/
def refuseConfig (s : State) : State := { s with phase := .cfgFault }

/-- The halt: `emit COMPLETE`, then `phase <- HALTED` (spec/46_shutdown.md R162). It saves no state and goes to no vector
(spec/60_exceptions.md R177), and nothing returns from it (R178). -/
def emitComplete (s : State) : State := { s with events := s.events ++ [.complete], phase := .halted }

/-- The input of this step: the next one listed, or a free value (DESIGN CHOICE, log entry 1). -/
def nextInput (s : State) : Input :=
  match s.inputs with
  | [] => Config.freeInput s.inputIdx
  | i :: _ => i

/-- The input of this step is used up. -/
def takeInput (s : State) : State := { s with inputs := s.inputs.tail, inputIdx := s.inputIdx + 1 }

/-- Other agents' writes change memory only: the block does not notice them (spec/20_memory.md R49, R52). -/
def agentsWrite (ws : List AgentWrite) (s : State) : State :=
  { s with mem := ws.foldl (fun m w => Memory.write16 m w.addr w.data) s.mem }

/-- The reset input: every register at its reset value, memory as unwritten (spec/70_reset_and_hazards.md R190,
spec/10_state.md R23; DEDUCED, log entry 7). The environment's inputs are not the block's to reset. -/
def resetInput (s : State) : State :=
  { State.resetWith s.cfg with inputs := s.inputs, inputIdx := s.inputIdx }

/-- The reads of one iteration, each port once (spec/41_bit_sampler.md R90; DEDUCED, log entry 19 for the moment of the third). -/
def latchPorts (i : Input) (s : State) : State :=
  { s with now := i.tick, cur := i.line, shut := i.shutdown }

/-- `prev <- cur` (spec/41_bit_sampler.md R93). -/
def commitPrev (s : State) : State := { s with prev := s.cur }

end Sys2Proof.Machine
end

