-- ==== Sys2Proof/Machine/Accumulator.lean ====
section
/-! DEFINITION. The accumulator operations (spec/43_accumulator.md): ReadingData, ReadingStop. -/

namespace Sys2Proof.Machine

open Sys2Proof

/-- DATA.WAIT (spec/43_accumulator.md R120): nothing is written. -/
def execDataWait (s : State) : Result := .next s

/-- DATA.BIT with the sampled bit `c` (spec/43_accumulator.md R121). -/
def execDataBit (c : Bool) (s : State) : Result := .next (sampleDataBit c s)

/-- DATA.LAST with the sampled bit `c` (spec/43_accumulator.md R122). -/
def execDataLast (c : Bool) (s : State) : Result := .next { sampleDataBit c s with st := .stop }

/-- STOP.WAIT (spec/43_accumulator.md R123): nothing is written. -/
def execStopWait (s : State) : Result := .next s

/-- STOP.VALID (spec/43_accumulator.md R124): the interval is taken from the old `lastByteTick`. -/
def execStopValid (s : State) : Result :=
  let s1 := push (interval s) (payload s) s
  let s2 := { s1 with lastByteTick := s.now, linkCountdown := sentinelCount s.cfg }
  .next { countValidByte s2 with st := .await }

/-- STOP.INVALID (spec/43_accumulator.md R125): the sentinel entry. -/
def execStopInvalid (s : State) : Result := .next { push 0 (payload s) s with st := .await }

end Sys2Proof.Machine
end

