-- ==== Sys2Proof/Machine/Boot.lean ====
section
/-! DEFINITION. The start-up operations (spec/70_reset_and_hazards.md R196 to R200). -/

namespace Sys2Proof.Machine

open Sys2Proof

/-- BOOT.CFG (spec/70_reset_and_hazards.md R196). -/
def execBootCfg (s : State) : Result :=
  .next (if s.cfg.isLegal then advanceBoot s else refuseConfig s)

/-- BOOT.HEAD (spec/70_reset_and_hazards.md R197). -/
def execBootHead (s : State) : Result := .next (advanceBoot (memWrite16 (headAddr s.cfg) 0 s))

/-- BOOT.TAIL (spec/70_reset_and_hazards.md R198). -/
def execBootTail (s : State) : Result :=
  .next (advanceBoot (memWrite16 (tailAddr s.cfg) 0 { s with tail := 0 }))

/-- Push one diagnostic entry (spec/70_reset_and_hazards.md R199). -/
def pushDiag (e : RingEntry) (s : State) : State := advanceBoot (push e.value e.payload s)

/-- BOOT.DIAG0 (spec/70_reset_and_hazards.md R199). -/
def execBootDiag0 (s : State) : Result := .next (pushDiag s.cfg.diag0 s)

/-- BOOT.DIAG1 (spec/70_reset_and_hazards.md R199). -/
def execBootDiag1 (s : State) : Result := .next (pushDiag s.cfg.diag1 s)

/-- BOOT.DIAG2 (spec/70_reset_and_hazards.md R199). -/
def execBootDiag2 (s : State) : Result := .next (pushDiag s.cfg.diag2 s)

/-- BOOT.RUN (spec/70_reset_and_hazards.md R200). -/
def execBootRun (s : State) : Result := .next { s with phase := .run }

end Sys2Proof.Machine
end

