-- ==== Sys2Proof/Machine/FrameAlignment.lean ====
section
/-! DEFINITION. The frame-alignment operations (spec/42_frame_alignment.md): Idle, AwaitingStart, ConfirmingStart. The
iteration around them (the reads, `prev <- cur`, the HALT check) is Machine/Iteration.lean's. -/

namespace Sys2Proof.Machine

open Sys2Proof

/-- IDLE.CLR (spec/42_frame_alignment.md R100). -/
def execIdleClr (s : State) : Result := .next { s with idleCnt := 0 }

/-- IDLE.CNT (spec/42_frame_alignment.md R101). A full counter wraps (DEDUCED, log entry 18). -/
def execIdleCnt (s : State) : Result := .next { s with idleCnt := s.idleCnt + 1 }

/-- IDLE.ARM (spec/42_frame_alignment.md R102). -/
def execIdleArm (s : State) : Result := .next { s with idleCnt := 0, st := .await }

/-- AWAIT.AGE (spec/42_frame_alignment.md R103, spec/45_link_indicator.md R151). -/
def execAwaitAge (s : State) : Result :=
  .next { s with lowCnt := 0, linkCountdown := satdec s.linkCountdown }

/-- AWAIT.CNT (spec/42_frame_alignment.md R104). A full counter wraps (DEDUCED, log entry 18). -/
def execAwaitCnt (s : State) : Result := .next { s with lowCnt := s.lowCnt + 1 }

/-- AWAIT.EDGE (spec/42_frame_alignment.md R105). -/
def execAwaitEdge (s : State) : Result :=
  .next { s with lowCnt := 0, startTick := sub32 s.now (latencyTicks s.cfg), st := .confirm }

/-- CONF.WAIT (spec/42_frame_alignment.md R106): nothing is written. -/
def execConfWait (s : State) : Result := .next s

/-- CONF.OK (spec/42_frame_alignment.md R107). -/
def execConfOk (s : State) : Result :=
  .next { s with dataByte := 0, bitIndex := 1, bitMask := 1, st := .data }

/-- CONF.FALSE (spec/42_frame_alignment.md R108). -/
def execConfFalse (s : State) : Result := .next { s with st := .idle }

end Sys2Proof.Machine
end

