-- ==== Sys2Proof/Machine/Reserved.lean ====
section
/-! DEFINITION. RSVD.RESET, the operation of the reserved state codes (spec/30_encoding.md R69), one meaning per row of the
table. -/

namespace Sys2Proof.Machine

open Sys2Proof

/-- RSVD.RESET for state code 5 (spec/30_encoding.md R69). -/
def execRsvdReset5 (s : State) : Result := .next (returnToIdle s)

/-- RSVD.RESET for state codes 6 and 7 (spec/30_encoding.md R69). -/
def execRsvdReset67 (s : State) : Result := .next (returnToIdle s)

end Sys2Proof.Machine
end

