-- ==== Sys2Proof/Machine/Shutdown.lean ====
section
/-! DEFINITION. The shutdown check (spec/46_shutdown.md). -/

namespace Sys2Proof.Machine

open Sys2Proof

/-- HALT.CONT (spec/46_shutdown.md R161): nothing is written. -/
def execHaltCont (s : State) : Result := .next s

/-- HALT.STOP (spec/46_shutdown.md R162). -/
def execHaltStop (s : State) : Result := .next (emitComplete s)

end Sys2Proof.Machine
end

