-- ==== Sys2Proof/Machine/Dispatch.lean ====
section
/-! DEFINITION. The meaning of every operation, one arm per constructor. -/

namespace Sys2Proof.Machine

open Sys2Proof

def exec (i : Instr) (s : State) : Host.Outcome State Fault Refusal :=
  match i with
  | .idleClr => Sys2Proof.Machine.execIdleClr s
  | .idleCnt => Sys2Proof.Machine.execIdleCnt s
  | .idleArm => Sys2Proof.Machine.execIdleArm s
  | .awaitAge => Sys2Proof.Machine.execAwaitAge s
  | .awaitCnt => Sys2Proof.Machine.execAwaitCnt s
  | .awaitEdge => Sys2Proof.Machine.execAwaitEdge s
  | .confWait => Sys2Proof.Machine.execConfWait s
  | .confOk => Sys2Proof.Machine.execConfOk s
  | .confFalse => Sys2Proof.Machine.execConfFalse s
  | .dataWait => Sys2Proof.Machine.execDataWait s
  | .dataBit c => Sys2Proof.Machine.execDataBit c s
  | .dataLast c => Sys2Proof.Machine.execDataLast c s
  | .stopWait => Sys2Proof.Machine.execStopWait s
  | .stopInvalid => Sys2Proof.Machine.execStopInvalid s
  | .stopValid => Sys2Proof.Machine.execStopValid s
  | .rsvdReset5 => Sys2Proof.Machine.execRsvdReset5 s
  | .rsvdReset67 => Sys2Proof.Machine.execRsvdReset67 s
  | .haltCont => Sys2Proof.Machine.execHaltCont s
  | .haltStop => Sys2Proof.Machine.execHaltStop s
  | .bootCfg => Sys2Proof.Machine.execBootCfg s
  | .bootHead => Sys2Proof.Machine.execBootHead s
  | .bootTail => Sys2Proof.Machine.execBootTail s
  | .bootDiag0 => Sys2Proof.Machine.execBootDiag0 s
  | .bootDiag1 => Sys2Proof.Machine.execBootDiag1 s
  | .bootDiag2 => Sys2Proof.Machine.execBootDiag2 s
  | .bootRun => Sys2Proof.Machine.execBootRun s

end Sys2Proof.Machine
end

