-- ==== Sys2Proof/Machine/Iteration.lean ====
section
/-! DEFINITION. What the machine does around an operation: selecting it, the order of an iteration
(spec/41_bit_sampler.md R90), the start-up sequence (spec/70_reset_and_hazards.md R193), the phases in which the block has
no step (spec/10_state.md R12), and the environment's part of a step. -/

namespace Sys2Proof.Machine

open Sys2Proof

/-- Go on from a next state; a stop stays a stop. -/
def andThen (r : Result) (f : State → Result) : Result :=
  match r with
  | .next s => f s
  | .fault e => .fault e
  | .refused e => .refused e

/-- Execute the operation a selector names. -/
def execSelected (sel : Selector) (s : State) : Result :=
  match decode sel with
  | .ok i => exec i s
  | .error e => .refused (.reservedSelector e)

/-- The end of an iteration: `prev <- cur`, then the HALT operation (spec/41_bit_sampler.md R90 (4), (5);
spec/46_shutdown.md R160). -/
def finishIteration (s : State) : Result :=
  execSelected (.halt (BitVec.ofBool (commitPrev s).shut)) (commitPrev s)

/-- One iteration, after its reads: the STEP operation SEL names, then the end of the iteration
(spec/41_bit_sampler.md R90 (3) to (5)). -/
def iterate (s : State) : Result := andThen (execSelected (.step (sel s)) s) finishIteration

/-- The block's part of a step: a start-up operation, an iteration, or nothing at all (spec/10_state.md R12,
spec/60_exceptions.md R181; DESIGN CHOICE, log entry 8). -/
def blockStep (i : Input) (s : State) : Result :=
  match s.phase with
  | .boot => execSelected (.boot s.bseq) s
  | .run => iterate (latchPorts i s)
  | .halted => .next s
  | .cfgFault => .next s

/-- One step under the input `i`: the reset input, or what other agents wrote and then the block's part
(spec/60_exceptions.md R181; DEDUCED, log entry 7; DESIGN CHOICE, log entry 9). -/
def stepUnder (i : Input) (s : State) : Result :=
  if i.reset then .next (resetInput s) else blockStep i (agentsWrite i.agentWrites s)

end Sys2Proof.Machine
end

