-- ==== Sys2Proof/Machine/Stimulus.lean ====
section
/-! DEFINITION. The environment's side: the stimulus script of spec/30_encoding.md R70 as lists of inputs. Nothing here is
state or behaviour of the block. -/

namespace Sys2Proof.Machine

open Sys2Proof

/-- `iter <now> <cur> <shut>`: one iteration with these inputs and nothing else happening. -/
def Input.quiet (tick : Tick) (line shutdown : Bool) : Input := ⟨tick, line, shutdown, false, []⟩

/-- `boot`: the seven start-up operations read no port (spec/70_reset_and_hazards.md R193), so the levels do not matter. -/
def bootInputs : List Input := List.replicate 7 (Input.quiet 0 false false)

/-- `rep <n> now=<t0>+<dt>*j cur=<b>`. -/
def repInputs (n t0 dt : Nat) (b : Bool) : List Input :=
  (List.range n).map (fun j => Input.quiet (BitVec.ofNat 32 (t0 + dt * j)) b false)

/-- What a script declares on the line. -/
inductive Segment where
  /-- `frame E byte stop` -/
  | frame (edge : Nat) (byte : Byte) (stop : Bool)
  /-- `low a b`, both ends included -/
  | low (first last : Nat)
deriving DecidableEq, Repr

/-- The first tick of cell `k` of a frame whose falling edge is at `edge`; a boundary at a non-integer tick is rounded
down. With an illegal BAUD of 0, for which the bit period has no value, every cell is empty and the frame covers no tick
(DESIGN CHOICE, log entry 31). -/
def cellStart (c : Config) (edge k : Nat) : Nat := edge + k * c.tickHz / c.baud

/-- The level of cell `k`: start bit, data bits least-significant first, stop level. -/
def cellLevel (byte : Byte) (stop : Bool) (k : Nat) : Bool :=
  if k = 0 then false else if k ≤ 8 then byte.getLsbD (k - 1) else stop

/-- The level a declaration gives at tick `t`, if it covers `t`. -/
def segmentLevel (c : Config) (t : Nat) : Segment → Option Bool
  | .frame edge byte stop =>
    ((List.range 10).find? (fun k => decide (cellStart c edge k ≤ t) && decide (t < cellStart c edge (k + 1)))).map
      (cellLevel byte stop)
  | .low first last => if first ≤ t ∧ t ≤ last then some false else none

/-- `line(t)`: high wherever no declaration covers the tick, whether or not the script declares `idle` (DESIGN CHOICE, log
entry 32); the first that covers it wins (DESIGN CHOICE, log entry 23). -/
def lineLevel (c : Config) (segs : List Segment) (t : Nat) : Bool := (segs.findSome? (segmentLevel c t)).getD true

/-- `shut-from t`. -/
def shutLevel (shutFrom : Option Nat) (t : Nat) : Bool :=
  match shutFrom with
  | some from_ => decide (from_ ≤ t)
  | none => false

/-- `clock t0 P` and `run n`: `n` iterations, iteration `k` at tick `t0 + P × k`. -/
def runInputs (c : Config) (segs : List Segment) (shutFrom : Option Nat) (t0 period n : Nat) : List Input :=
  (List.range n).map (fun k =>
    Input.quiet (BitVec.ofNat 32 (t0 + period * k)) (lineLevel c segs (t0 + period * k))
      (shutLevel shutFrom (t0 + period * k)))

end Sys2Proof.Machine
end

