-- ==== Sys2Proof/Machine/Step.lean ====
section
/-! DEFINITION. One step of the machine, and how a table word is placed so that the next step runs it. -/

namespace Sys2Proof.Machine

open Sys2Proof

/-- One step: the next input is taken, and the step is made under it. -/
def step (s : State) : Host.Outcome State Fault Refusal := stepUnder (nextInput s) (takeInput s)

/-- `s` in phase RUN with decoder state `d` and the line level `line` as its next input, no stop requested. -/
def State.facing (s : State) (d : DecoderState) (line : Bool) : State :=
  { s with phase := .run, st := d, inputs := Input.quiet s.now line false :: s.inputs }

/-- `s` with `startTick` set so that `elapsed` is `OFFSET[k]` in the next iteration if `due`, and 0 if not. -/
def State.elapsing (s : State) (k : Nat) (due : Bool) : State :=
  { s with startTick := if due then sub32 s.now (BitVec.ofNat 32 ((offset? s.cfg k).getD 0)) else s.now }

/-- `s` set so that its next step selects the operation `i`: an operation is not fetched but selected by the state and the
inputs (spec/30_encoding.md R61), so these are what is set. -/
def State.selecting (s : State) (i : Instr) (c : Bool) : State :=
  match i with
  | .idleClr => { s with prev := false }.facing .idle c
  | .idleCnt => { s with prev := true, idleCnt := 0 }.facing .idle true
  | .idleArm => { s with prev := true, idleCnt := BitVec.ofNat 32 (s.cfg.idleThreshold - 1) }.facing .idle true
  | .awaitAge => { s with prev := true }.facing .await c
  | .awaitCnt => { s with prev := false, lowCnt := 0 }.facing .await false
  | .awaitEdge => { s with prev := false, lowCnt := BitVec.ofNat 32 (s.cfg.startThreshold - 1) }.facing .await false
  | .confWait => (s.elapsing 0 false).facing .confirm c
  | .confOk => (s.elapsing 0 true).facing .confirm false
  | .confFalse => (s.elapsing 0 true).facing .confirm true
  | .dataWait => { s.elapsing 1 false with bitIndex := 1, bitMask := 1 }.facing .data c
  | .dataBit b => { s.elapsing 1 true with bitIndex := 1, bitMask := 1 }.facing .data b
  | .dataLast b => { s.elapsing 8 true with bitIndex := 8, bitMask := 0x80 }.facing .data b
  | .stopWait => (s.elapsing 9 false).facing .stop c
  | .stopInvalid => (s.elapsing 9 true).facing .stop false
  | .stopValid => (s.elapsing 9 true).facing .stop true
  | .rsvdReset5 => s.facing .rsvd5 c
  | .rsvdReset67 => s.facing .rsvd6 c
  | .haltCont => { s with phase := .run, inputs := Input.quiet s.now s.cur false :: s.inputs }
  | .haltStop => { s with phase := .run, inputs := Input.quiet s.now s.cur true :: s.inputs }
  | .bootCfg => { s with phase := .boot, bseq := 0, inputs := Input.quiet 0 false false :: s.inputs }
  | .bootHead => { s with phase := .boot, bseq := 1, inputs := Input.quiet 0 false false :: s.inputs }
  | .bootTail => { s with phase := .boot, bseq := 2, inputs := Input.quiet 0 false false :: s.inputs }
  | .bootDiag0 => { s with phase := .boot, bseq := 3, inputs := Input.quiet 0 false false :: s.inputs }
  | .bootDiag1 => { s with phase := .boot, bseq := 4, inputs := Input.quiet 0 false false :: s.inputs }
  | .bootDiag2 => { s with phase := .boot, bseq := 5, inputs := Input.quiet 0 false false :: s.inputs }
  | .bootRun => { s with phase := .boot, bseq := 6, inputs := Input.quiet 0 false false :: s.inputs }

/-- `s` with the operation of a table word selected for its next step (DESIGN CHOICE, log entry 14). A word that decodes to nothing
leaves `s` as it is. -/
def State.withFetchWord (s : State) (nbits w : Nat) : State :=
  match decodeTableWord nbits w with
  | some i => s.selecting i (selC (BitVec.ofNat 8 w))
  | none => s

end Sys2Proof.Machine
end

