-- ==== Sys2Proof/Machine/EventClass.lean ====
section
/-! DEFINITION. The event classes of spec/60_exceptions.md R172, in place of a cause-code table. They have no numbers and
are stored nowhere: they name what an operation's execution means. -/

namespace Sys2Proof.Machine

open Sys2Proof

/-- The event classes of the block (spec/60_exceptions.md R172). -/
inductive EventClass where
  /-- `E_CONFIG` -/
  | config
  /-- `E_STOPBIT` -/
  | stopBit
  /-- `E_FALSE_START` -/
  | falseStart
  /-- `E_OVERRUN` -/
  | overrun
  /-- `E_LATE` -/
  | late
  /-- `E_SHUTDOWN` -/
  | shutdown
deriving DecidableEq, Repr

/-- The class an operation raises by itself (spec/60_exceptions.md R172). -/
def eventClass (i : Instr) (s : State) : Option EventClass :=
  match i with
  | .idleClr => none
  | .idleCnt => none
  | .idleArm => none
  | .awaitAge => none
  | .awaitCnt => none
  | .awaitEdge => none
  | .confWait => none
  | .confOk => none
  | .confFalse => some .falseStart
  | .dataWait => none
  | .dataBit _ => none
  | .dataLast _ => none
  | .stopWait => none
  | .stopInvalid => some .stopBit
  | .stopValid => none
  | .rsvdReset5 => none
  | .rsvdReset67 => none
  | .haltCont => none
  | .haltStop => some .shutdown
  | .bootCfg => if s.cfg.isLegal then none else some .config
  | .bootHead => none
  | .bootTail => none
  | .bootDiag0 => none
  | .bootDiag1 => none
  | .bootDiag2 => none
  | .bootRun => none

/-- `E_OVERRUN` of a PUSH in state `s`: the slot written is one the consumer has not read. The block cannot detect it, so
which slots are unread is an argument (spec/20_memory.md R51; DESIGN CHOICE, log entry 22). -/
def pushOverruns (unread : List Half) (s : State) : Option EventClass :=
  if s.tail ∈ unread then some .overrun else none

/-- `E_LATE`: the sample that is due now is taken after its offset has passed. The block does not detect it
(spec/40_timing_scheduler.md R84; DESIGN CHOICE, log entry 22). -/
def sampleLate (s : State) : Option EventClass :=
  match dueIndex s with
  | none => none
  | some k =>
    match offset? s.cfg k with
    | none => none
    | some o => if o < (elapsed s).toNat then some .late else none

end Sys2Proof.Machine
end

