-- ==== Sys2Proof/Safety.lean ====
section
/-! DEFINITION. What counts as a safe run: the roles other agents must keep, the invariants of spec/10_state.md R20, and
what an observer of the block's protocol sees. -/

namespace Sys2Proof.Machine

open Sys2Proof

/-- A byte only the block writes: the `tail` word and the entries (spec/20_memory.md R40, R49 (c)). -/
def blockOwns (c : Config) (a : Nat) : Prop := c.ringBase + 2 ≤ a ∧ a < c.ringBase + 4 + 4 * c.ringN

/-- A byte of the ring region (spec/10_state.md R21). -/
def inRing (c : Config) (a : Nat) : Prop := c.ringBase ≤ a ∧ a < c.ringBase + 4 + 4 * c.ringN

/-- The other agents keep their roles in this step: none of them writes `tail` or an entry (spec/20_memory.md R49 (c)). -/
def keepsRoles (c : Config) (i : Input) : Prop :=
  ∀ w ∈ i.agentWrites, ¬ blockOwns c w.addr.toNat ∧ ¬ blockOwns c (nextAddr w.addr).toNat

/-- V1: outside Idle its counter is 0, and it stays below the threshold (spec/10_state.md R20). -/
def V1 (s : State) : Prop := (s.st ≠ .idle → s.idleCnt = 0) ∧ s.idleCnt.toNat < s.cfg.idleThreshold

/-- V2: outside AwaitingStart its counter is 0, and it stays below the threshold (spec/10_state.md R20). -/
def V2 (s : State) : Prop := (s.st ≠ .await → s.lowCnt = 0) ∧ s.lowCnt.toNat < s.cfg.startThreshold

/-- V3: index, mask and byte while data bits are being read (spec/10_state.md R20). -/
def V3 (s : State) : Prop :=
  s.st = .data → 1 ≤ s.bitIndex.toNat ∧ s.bitIndex.toNat ≤ 8 ∧ s.bitMask.toNat = 2 ^ (s.bitIndex.toNat - 1) ∧
    s.dataByte.toNat < 2 ^ (s.bitIndex.toNat - 1)

/-- V4: index and mask at rest in ReadingStop (spec/10_state.md R20). -/
def V4 (s : State) : Prop := s.st = .stop → s.bitIndex = 9 ∧ s.bitMask = 0x0100

/-- V5: the reserved codes are not reached (spec/10_state.md R20). -/
def V5 (s : State) : Prop := s.st ≠ .rsvd5 ∧ s.st ≠ .rsvd6 ∧ s.st ≠ .rsvd7

/-- V6: the tail is an index of the ring, and its word in memory is its image (spec/10_state.md R20). -/
def V6 (s : State) : Prop := s.tail.toNat < s.cfg.ringN ∧ Memory.read16 s.mem (tailAddr s.cfg) = some s.tail

/-- V7: the cosmetic counters stay in range (spec/10_state.md R20). -/
def V7 (s : State) : Prop :=
  s.byteCounter.toNat < s.cfg.indicatorPeriod ∧ s.linkCountdown.toNat ≤ s.cfg.linkSentinel

/-- How often COMPLETE has been emitted since reset. -/
def completions (s : State) : Nat := s.events.count .complete

/-- V8: COMPLETE has been emitted exactly once when halted, and never otherwise (spec/10_state.md R20,
spec/60_exceptions.md R171). -/
def V8 (s : State) : Prop := (s.phase = .halted → completions s = 1) ∧ (s.phase ≠ .halted → completions s = 0)

/-- A configuration that has passed BOOT.CFG is legal: until then, and in CFG_FAULT, it need not be. -/
def configChecked (s : State) : Prop :=
  s.cfg.isLegal = true ∨ (s.phase = .boot ∧ s.bseq = 0) ∨ s.phase = .cfgFault

/-- During the start-up sequence the index is one of its seven, and the registers V1 to V7 speak of hold their reset
values; once BOOT.TAIL has run, the tail counts the diagnostic entries and memory shows it. -/
def startingUp (s : State) : Prop :=
  s.phase = .boot → s.bseq.toNat ≤ 6 ∧ s.st = .idle ∧ s.idleCnt = 0 ∧ s.lowCnt = 0 ∧ s.byteCounter = 0 ∧
    s.linkCountdown = 0 ∧
    (3 ≤ s.bseq.toNat → s.tail.toNat = s.bseq.toNat - 3 ∧ Memory.read16 s.mem (tailAddr s.cfg) = some s.tail)

/-- The invariants of spec/10_state.md R20, with the canonical form of memory and what the start-up sequence needs. -/
structure Inv (s : State) : Prop where
  canonical : Memory.wf s.mem
  checked : configChecked s
  starting : startingUp s
  decoding : s.phase = .run ∨ s.phase = .halted → V1 s ∧ V2 s ∧ V3 s ∧ V4 s ∧ V5 s ∧ V6 s ∧ V7 s
  completed : V8 s

/-- A step that stops is not safe; every other step is. -/
def answersNext (r : Result) : Prop := ∃ t, r = .next t

/-- Two states that differ at most in the cosmetic registers (spec/10_state.md R17). -/
def sameButCosmetic (s t : State) : Prop :=
  t = { s with linkCountdown := t.linkCountdown, byteCounter := t.byteCounter, indicator := t.indicator }

/-- Two states that differ at most in the contents of memory. -/
def sameButMemory (s t : State) : Prop := t = { s with mem := t.mem }

/-- `k` steps, ending at the first stop. -/
def runSteps : Nat → State → Result
  | 0, s => .next s
  | k + 1, s => andThen (step s) (runSteps k)

/-- The state in which an iteration selects and executes its operation: other agents' writes done, the ports read. -/
def iterationStart (s : State) : State :=
  latchPorts (nextInput s) (agentsWrite (nextInput s).agentWrites (takeInput s))

/-- The iteration that would start in `s` selects the operation `i`, by a selector that `i`'s row matches
(spec/30_encoding.md R63). -/
def selectsBy (s : State) (mask pattern : BitVec 8) (i : Instr) : Prop :=
  sel s &&& mask = pattern ∧ decodeStep (sel s) = .ok i

/-- From `s` to `t` one entry was pushed (spec/44_ring_write.md R142): the tail has moved on by one modulo RING_N, the entry
and the tail stand in memory at the addresses the operation computes, every other byte is as before, and the three beats
were driven in order. -/
def pushesEntry (value payload : Half) (s t : State) : Prop :=
  t.tail.toNat = (s.tail.toNat + 1) % s.cfg.ringN ∧
  Memory.read16 t.mem (valueAddr s.cfg s.tail) = some value ∧
  Memory.read16 t.mem (payloadAddr s.cfg s.tail) = some payload ∧
  Memory.read16 t.mem (tailAddr s.cfg) = some t.tail ∧
  (∀ a : Nat,
    (a < (valueAddr s.cfg s.tail).toNat ∨ (valueAddr s.cfg s.tail).toNat + 2 ≤ a) →
    (a < (payloadAddr s.cfg s.tail).toNat ∨ (payloadAddr s.cfg s.tail).toNat + 2 ≤ a) →
    (a < (tailAddr s.cfg).toNat ∨ (tailAddr s.cfg).toNat + 2 ≤ a) → Memory.read t.mem a = Memory.read s.mem a) ∧
  t.events = s.events ++
    [.ringWrite (valueAddr s.cfg s.tail) value, .ringWrite (payloadAddr s.cfg s.tail) payload,
      .ringWrite (tailAddr s.cfg) t.tail]

/-- The pushes of a list of (value, payload) pairs, one after another. -/
def pushAll (entries : List RingEntry) (s : State) : State :=
  entries.foldl (fun u e => push e.value e.payload u) s

/-- Memory after the beats of a trace, in their order: what an agent sees that has seen them all
(spec/20_memory.md R47 (b)). -/
def replay (es : List Event) (m : Memory) : Memory :=
  es.foldl (fun m e => match e with
    | .ringWrite a v => Memory.write16 m a v
    | .complete => m) m

/-- The state graph of spec/30_encoding.md R66: from which states an operation leaves, and to which it goes (`none`: the
state is not written). An operation of the HALT or BOOT format writes no state. -/
def transition : Instr → List DecoderState × Option DecoderState
  | .idleClr => ([.idle], none)
  | .idleCnt => ([.idle], none)
  | .idleArm => ([.idle], some .await)
  | .awaitAge => ([.await], none)
  | .awaitCnt => ([.await], none)
  | .awaitEdge => ([.await], some .confirm)
  | .confWait => ([.confirm], none)
  | .confOk => ([.confirm], some .data)
  | .confFalse => ([.confirm], some .idle)
  | .dataWait => ([.data], none)
  | .dataBit _ => ([.data], none)
  | .dataLast _ => ([.data], some .stop)
  | .stopWait => ([.stop], none)
  | .stopInvalid => ([.stop], some .await)
  | .stopValid => ([.stop], some .await)
  | .rsvdReset5 => ([.rsvd5], some .idle)
  | .rsvdReset67 => ([.rsvd6, .rsvd7], some .idle)
  | .haltCont => ([], none)
  | .haltStop => ([], none)
  | .bootCfg => ([], none)
  | .bootHead => ([], none)
  | .bootTail => ([], none)
  | .bootDiag0 => ([], none)
  | .bootDiag1 => ([], none)
  | .bootDiag2 => ([], none)
  | .bootRun => ([], none)

end Sys2Proof.Machine
end

