-- ==== Sys2Proof/Certificates/Slice0/Obligations.lean ====
section
/-! DEFINITION. The statements. Each docstring names the rule of spec/ it formalises, or says that it rests on the model's
own choice. Configurations are universally quantified: nothing is stated of the reference configuration alone but where a
title says so. -/

open Sys2Proof Sys2Proof.Machine

/-! ### Selectors -/

/-- The decoding samples of spec/95_test_vectors.md section 3.2, and the HALT and BOOT selectors of spec/30_encoding.md R64
and R65 with the reserved index of R69 (b). A sanity statement. -/
def Obligations.SampleSelectorWordsDecode : Prop :=
  decodeStep 0b00000010 = .ok .idleClr ∧ decodeStep 0b00010010 = .ok .idleCnt ∧
  decodeStep 0b00011010 = .ok .idleArm ∧ decodeStep 0b00100000 = .ok .awaitAge ∧
  decodeStep 0b00101010 = .ok .awaitAge ∧ decodeStep 0b00110000 = .ok .awaitCnt ∧
  decodeStep 0b00111000 = .ok .awaitEdge ∧ decodeStep 0b01000010 = .ok .confWait ∧
  decodeStep 0b01000100 = .ok .confOk ∧ decodeStep 0b01000110 = .ok .confFalse ∧
  decodeStep 0b01100011 = .ok .dataWait ∧ decodeStep 0b01100100 = .ok (.dataBit false) ∧
  decodeStep 0b01100110 = .ok (.dataBit true) ∧ decodeStep 0b01100101 = .ok (.dataLast false) ∧
  decodeStep 0b01100111 = .ok (.dataLast true) ∧ decodeStep 0b10000010 = .ok .stopWait ∧
  decodeStep 0b10000100 = .ok .stopInvalid ∧ decodeStep 0b10000110 = .ok .stopValid ∧
  decodeStep 0b10100000 = .ok .rsvdReset5 ∧ decodeStep 0b11111111 = .ok .rsvdReset67 ∧
  decodeHalt 0 = .ok .haltCont ∧ decodeHalt 1 = .ok .haltStop ∧
  decodeBoot 0 = .ok .bootCfg ∧ decodeBoot 1 = .ok .bootHead ∧ decodeBoot 2 = .ok .bootTail ∧
  decodeBoot 3 = .ok .bootDiag0 ∧ decodeBoot 4 = .ok .bootDiag1 ∧ decodeBoot 5 = .ok .bootDiag2 ∧
  decodeBoot 6 = .ok .bootRun ∧ decodeBoot 7 = .error .reservedBootIndex

/-- The STEP operation map of spec/30_encoding.md R63: every word that a row's mask and match select decodes to that row's
operation, DATA.BIT and DATA.LAST with bit 1 as their operand, and every word decodes to one. -/
def Obligations.StepMapDecodesEveryWord : Prop :=
  ∀ w : BitVec 8,
    (w &&& 0xF0 = 0x00 → decodeStep w = .ok .idleClr) ∧ (w &&& 0xF8 = 0x10 → decodeStep w = .ok .idleCnt) ∧
    (w &&& 0xF8 = 0x18 → decodeStep w = .ok .idleArm) ∧ (w &&& 0xF0 = 0x20 → decodeStep w = .ok .awaitAge) ∧
    (w &&& 0xF8 = 0x30 → decodeStep w = .ok .awaitCnt) ∧ (w &&& 0xF8 = 0x38 → decodeStep w = .ok .awaitEdge) ∧
    (w &&& 0xE4 = 0x40 → decodeStep w = .ok .confWait) ∧ (w &&& 0xE6 = 0x44 → decodeStep w = .ok .confOk) ∧
    (w &&& 0xE6 = 0x46 → decodeStep w = .ok .confFalse) ∧ (w &&& 0xE4 = 0x60 → decodeStep w = .ok .dataWait) ∧
    (w &&& 0xE5 = 0x64 → decodeStep w = .ok (.dataBit (w.getLsbD 1))) ∧
    (w &&& 0xE5 = 0x65 → decodeStep w = .ok (.dataLast (w.getLsbD 1))) ∧
    (w &&& 0xE4 = 0x80 → decodeStep w = .ok .stopWait) ∧ (w &&& 0xE6 = 0x84 → decodeStep w = .ok .stopInvalid) ∧
    (w &&& 0xE6 = 0x86 → decodeStep w = .ok .stopValid) ∧ (w &&& 0xE0 = 0xA0 → decodeStep w = .ok .rsvdReset5) ∧
    (w &&& 0xC0 = 0xC0 → decodeStep w = .ok .rsvdReset67) ∧ ∃ i, decodeStep w = .ok i

/-- Decoding the encoding of a well-formed operation gives it back, with every operand. -/
def Obligations.DecodeOfEncodeIsTheOperation : Prop :=
  ∀ i : Instr, i.wellFormed = true → decode (encode i) = .ok i

/-- A selector decodes to an operation exactly when it has the operation's format and agrees with the operation's encoding on
its mask and operand bits: no other word decodes to it, and no bit that matters is dropped (spec/30_encoding.md R63 to
R65). -/
def Obligations.DecodeExactlyOnAgreeingWords : Prop :=
  ∀ (sel : Selector) (i : Instr), decode sel = .ok i ↔
    sel.format = i.format ∧ sel.word &&& (i.mask ||| i.operandMask) = (encode i).word

/-- The selector of an iteration, field by field, with the state codes (spec/30_encoding.md R61, R62). The tables' entries
are looked up in the list `OFFSET`. That a missing entry counts as not due is log entry 16; how an illegal threshold of 0 and
an illegal entry of 2^32 or more compare is the model's choice, log entry 28. In ReadingData with an index outside 1 to 8 the
formula is read literally, log entry 29, into an illegal table of more than 11 entries too, log entry 30. -/
def Obligations.SelectorPacksThePredicates : Prop :=
  ∀ s : State, let w := sel s
    (s.st = .idle → w.extractLsb' 5 3 = 0) ∧ (s.st = .await → w.extractLsb' 5 3 = 1) ∧
    (s.st = .confirm → w.extractLsb' 5 3 = 2) ∧ (s.st = .data → w.extractLsb' 5 3 = 3) ∧
    (s.st = .stop → w.extractLsb' 5 3 = 4) ∧ (s.st = .rsvd5 → w.extractLsb' 5 3 = 5) ∧
    (s.st = .rsvd6 → w.extractLsb' 5 3 = 6) ∧ (s.st = .rsvd7 → w.extractLsb' 5 3 = 7) ∧
    (w.getLsbD 4 = true ↔
      (s.st = .idle ∧ s.prev = true ∧ s.cur = true) ∨ (s.st = .await ∧ s.prev = false ∧ s.cur = false)) ∧
    (w.getLsbD 3 = true ↔
      (s.st = .idle ∧ s.idleCnt.toNat + 1 ≥ s.cfg.idleThreshold) ∨
      (s.st = .await ∧ s.lowCnt.toNat + 1 ≥ s.cfg.startThreshold)) ∧
    (w.getLsbD 2 = true ↔ ∃ o,
      (s.st = .confirm ∧ s.cfg.offsets[0]? = some o ∨ s.st = .data ∧ s.cfg.offsets[s.bitIndex.toNat]? = some o ∨
        s.st = .stop ∧ s.cfg.offsets[9]? = some o) ∧ (s.now - s.startTick).toNat ≥ o) ∧
    w.getLsbD 1 = s.cur ∧ (w.getLsbD 0 = true ↔ s.st = .data ∧ s.bitIndex = 8)

/-! ### The STEP operations -/

/-- IDLE.CLR, IDLE.CNT, IDLE.ARM: when each is selected, by which bits, and its whole effect
(spec/42_frame_alignment.md R100, R101, R102). That the counter wraps at 2^32 - 1 is log entry 18; that an illegal threshold of 0
is reached at once is the model's choice, log entry 28. -/
def Obligations.IdleOperationsSelectionAndEffect : Prop :=
  ∀ s : State,
    (s.st = .idle → ¬(s.prev = true ∧ s.cur = true) → selectsBy s 0xF0 0x00 .idleClr) ∧
    (s.st = .idle → s.prev = true → s.cur = true → s.idleCnt.toNat + 1 < s.cfg.idleThreshold →
      selectsBy s 0xF8 0x10 .idleCnt) ∧
    (s.st = .idle → s.prev = true → s.cur = true → s.idleCnt.toNat + 1 ≥ s.cfg.idleThreshold →
      selectsBy s 0xF8 0x18 .idleArm) ∧
    exec .idleClr s = .next { s with idleCnt := 0 } ∧
    exec .idleCnt s = .next { s with idleCnt := s.idleCnt + 1 } ∧
    exec .idleArm s = .next { s with idleCnt := 0, st := .await }

/-- AWAIT.AGE, AWAIT.CNT, AWAIT.EDGE: when each is selected, by which bits, and its whole effect
(spec/42_frame_alignment.md R103, R104, R105). For an illegal LATENCY_COMP of 2^32 or more its low 32 bits are subtracted, the
model's choice, log entry 26; that the counter wraps at 2^32 - 1 is log entry 18; that an illegal threshold of 0 is reached at
once is the model's choice, log entry 28. -/
def Obligations.AwaitOperationsSelectionAndEffect : Prop :=
  ∀ s : State,
    (s.st = .await → ¬(s.prev = false ∧ s.cur = false) → selectsBy s 0xF0 0x20 .awaitAge) ∧
    (s.st = .await → s.prev = false → s.cur = false → s.lowCnt.toNat + 1 < s.cfg.startThreshold →
      selectsBy s 0xF8 0x30 .awaitCnt) ∧
    (s.st = .await → s.prev = false → s.cur = false → s.lowCnt.toNat + 1 ≥ s.cfg.startThreshold →
      selectsBy s 0xF8 0x38 .awaitEdge) ∧
    (∃ t, exec .awaitAge s = .next t ∧ t = { s with lowCnt := 0, linkCountdown := t.linkCountdown } ∧
      t.linkCountdown.toNat = s.linkCountdown.toNat - 1) ∧
    exec .awaitCnt s = .next { s with lowCnt := s.lowCnt + 1 } ∧
    exec .awaitEdge s =
      .next { s with lowCnt := 0, startTick := s.now - BitVec.ofNat 32 s.cfg.latencyComp, st := .confirm }

/-- CONF.WAIT, CONF.OK, CONF.FALSE: when each is selected, by which bits, and its whole effect
(spec/42_frame_alignment.md R106, R107, R108). That an illegal entry of 2^32 or more is compared uncut is the model's choice,
log entry 28. -/
def Obligations.ConfirmOperationsSelectionAndEffect : Prop :=
  ∀ s : State,
    (∀ o, s.st = .confirm → s.cfg.offsets[0]? = some o →
      ((s.now - s.startTick).toNat < o → selectsBy s 0xE4 0x40 .confWait) ∧
      ((s.now - s.startTick).toNat ≥ o → s.cur = false → selectsBy s 0xE6 0x44 .confOk) ∧
      ((s.now - s.startTick).toNat ≥ o → s.cur = true → selectsBy s 0xE6 0x46 .confFalse)) ∧
    exec .confWait s = .next s ∧
    exec .confOk s = .next { s with dataByte := 0, bitIndex := 1, bitMask := 1, st := .data } ∧
    exec .confFalse s = .next { s with st := .idle }

/-- DATA.WAIT, DATA.BIT, DATA.LAST: when each is selected, by which bits, with which operand, and its whole effect
(spec/43_accumulator.md R120, R121, R122). That an illegal entry of 2^32 or more is compared uncut is the model's choice,
log entry 28; that an index of 15 wraps to 0 is log entry 18. With an index outside 1 to 8 the entry it names is compared, log
entry 29, in an illegal table of more than 11 entries too, log entry 30. -/
def Obligations.DataOperationsSelectionAndEffect : Prop :=
  ∀ s : State,
    (∀ o, s.st = .data → s.cfg.offsets[s.bitIndex.toNat]? = some o →
      ((s.now - s.startTick).toNat < o → selectsBy s 0xE4 0x60 .dataWait) ∧
      ((s.now - s.startTick).toNat ≥ o → s.bitIndex ≠ 8 → selectsBy s 0xE5 0x64 (.dataBit s.cur)) ∧
      ((s.now - s.startTick).toNat ≥ o → s.bitIndex = 8 → selectsBy s 0xE5 0x65 (.dataLast s.cur))) ∧
    exec .dataWait s = .next s ∧
    (∀ c : Bool, ∃ t, exec (.dataBit c) s = .next t ∧
      t = { s with dataByte := t.dataByte, bitMask := t.bitMask, bitIndex := s.bitIndex + 1 } ∧
      t.dataByte = (if c then s.dataByte ||| s.bitMask.extractLsb' 0 8 else s.dataByte) ∧
      t.bitMask.toNat = 2 * s.bitMask.toNat % 2 ^ 16) ∧
    (∀ c : Bool, ∃ t, exec (.dataLast c) s = .next t ∧
      t = { s with dataByte := t.dataByte, bitMask := t.bitMask, bitIndex := s.bitIndex + 1, st := .stop } ∧
      t.dataByte = (if c then s.dataByte ||| s.bitMask.extractLsb' 0 8 else s.dataByte) ∧
      t.bitMask.toNat = 2 * s.bitMask.toNat % 2 ^ 16)

/-- STOP.WAIT: when it is selected, by which bits, and its whole effect (spec/43_accumulator.md R123). That an
illegal entry of 2^32 or more is compared uncut is the model's choice, log entry 28. -/
def Obligations.StopWaitSelectionAndEffect : Prop :=
  ∀ s : State,
    (∀ o, s.st = .stop → s.cfg.offsets[9]? = some o → (s.now - s.startTick).toNat < o →
      selectsBy s 0xE4 0x80 .stopWait) ∧
    exec .stopWait s = .next s

/-- STOP.INVALID: when it is selected, by which bits; it pushes the sentinel entry and leaves for AwaitingStart, and writes
nothing else (spec/43_accumulator.md R125). -/
def Obligations.StopInvalidPushesSentinel : Prop :=
  ∀ s : State, s.cfg.isLegal = true → s.tail.toNat < s.cfg.ringN →
    (∀ o, s.st = .stop → s.cfg.offsets[9]? = some o → (s.now - s.startTick).toNat ≥ o → s.cur = false →
      selectsBy s 0xE6 0x84 .stopInvalid) ∧
    ∃ t, exec .stopInvalid s = .next t ∧ pushesEntry 0 (s.dataByte.setWidth 16) s t ∧
      t = { s with st := .await, tail := t.tail, mem := t.mem, events := t.events }

/-- STOP.VALID: when it is selected, by which bits; it pushes the scaled interval and the byte, records the tick, refreshes
the countdown, counts the byte, toggles the indicator on every INDICATOR_PERIOD-th, and leaves for AwaitingStart
(spec/43_accumulator.md R124). A counter of 255 that does not reach the period wraps to 0 without a toggle, log entry
18: with a period above 256, and in states that no run reaches with a period below 256. -/
def Obligations.StopValidPushesInterval : Prop :=
  ∀ s : State, s.cfg.isLegal = true → s.tail.toNat < s.cfg.ringN →
    (∀ o, s.st = .stop → s.cfg.offsets[9]? = some o → (s.now - s.startTick).toNat ≥ o → s.cur = true →
      selectsBy s 0xE6 0x86 .stopValid) ∧
    ∃ t, exec .stopValid s = .next t ∧
      pushesEntry (BitVec.ofNat 16 ((s.now - s.lastByteTick).toNat / s.cfg.intervalScale)) (s.dataByte.setWidth 16) s t ∧
      t = { s with st := .await, tail := t.tail, mem := t.mem, events := t.events, lastByteTick := s.now,
                   linkCountdown := t.linkCountdown, byteCounter := t.byteCounter, indicator := t.indicator } ∧
      t.linkCountdown.toNat = s.cfg.linkSentinel ∧
      (s.byteCounter.toNat + 1 = s.cfg.indicatorPeriod → t.byteCounter = 0 ∧ t.indicator = !s.indicator) ∧
      (s.byteCounter.toNat + 1 ≠ s.cfg.indicatorPeriod →
        t.byteCounter = s.byteCounter + 1 ∧ t.indicator = s.indicator)

/-- RSVD.RESET, both rows: selected in exactly its state codes, and its whole effect (spec/30_encoding.md R69 a, the spec's
decision D27). The states exist in the model by log entry 11. -/
def Obligations.ReservedStatesReturnToIdle : Prop :=
  ∀ s : State,
    (s.st = .rsvd5 → selectsBy s 0xE0 0xA0 .rsvdReset5) ∧
    (s.st = .rsvd6 ∨ s.st = .rsvd7 → selectsBy s 0xC0 0xC0 .rsvdReset67) ∧
    exec .rsvdReset5 s = .next { s with st := .idle, idleCnt := 0, lowCnt := 0 } ∧
    exec .rsvdReset67 s = .next { s with st := .idle, idleCnt := 0, lowCnt := 0 }

/-! ### The HALT and BOOT operations -/

/-- HALT.CONT writes nothing; HALT.STOP emits COMPLETE once and halts, and writes nothing else: in every decoder state alike
(spec/46_shutdown.md R161, R162). -/
def Obligations.HaltOperationsEffect : Prop :=
  ∀ s : State,
    exec .haltCont s = .next s ∧
    exec .haltStop s = .next { s with phase := .halted, events := s.events ++ [.complete] } ∧
    decodeHalt (BitVec.ofBool false) = .ok .haltCont ∧ decodeHalt (BitVec.ofBool true) = .ok .haltStop

/-- BOOT.CFG goes on exactly when every constraint on the configuration holds, and otherwise writes the phase and nothing
else (spec/70_reset_and_hazards.md R196 with spec/00_scope.md R4, spec/40_timing_scheduler.md R81, spec/60_exceptions.md
R171). The bit period is a rational number. -/
def Obligations.BootCfgChecksEveryConstraint : Prop :=
  ∀ s : State,
    let c := s.cfg
    let legal : Prop :=
      c.baud ∈ [19200, 57600, 115200, 125000] ∧ 0 < c.tickHz ∧
      c.offsets.length = 11 ∧ (∀ o ∈ c.offsets, o < 2 ^ 32) ∧
      (∀ i a b, c.offsets[i]? = some a → c.offsets[i + 1]? = some b → a < b) ∧
      (∃ o : Nat, c.offsets[9]? = some o ∧ (o : ℚ) < 10 * ((c.tickHz : ℚ) / (c.baud : ℚ))) ∧
      1 ≤ c.idleThreshold ∧ 1 ≤ c.startThreshold ∧ c.latencyComp < 2 ^ 32 ∧ 1 ≤ c.intervalScale ∧
      1 ≤ c.indicatorPeriod ∧ c.linkSentinel < 2 ^ 32 ∧ 4 ≤ c.ringN ∧ c.ringN ≤ 65536 ∧ 4 ∣ c.ringBase ∧
      c.ringBase + 4 + 4 * c.ringN ≤ 2 ^ 32
    (legal → exec .bootCfg s = .next { s with bseq := s.bseq + 1 }) ∧
    (¬ legal → exec .bootCfg s = .next { s with phase := .cfgFault })

/-- BOOT.HEAD and BOOT.TAIL: the header words become 0, every other byte is as before, and one beat is driven
(spec/70_reset_and_hazards.md R197, R198; the index step is the model's, log entry 21). What an illegal RING_BASE gives is the
model's choice: log entry 25 past the address space, log entry 27 at an odd address. -/
def Obligations.BootHeadAndTailWriteTheHeader : Prop :=
  ∀ s : State,
    (∃ t, exec .bootHead s = .next t ∧
      t = { s with bseq := s.bseq + 1, mem := t.mem, events := s.events ++ [.ringWrite (headAddr s.cfg) 0] } ∧
      Memory.read16 t.mem (headAddr s.cfg) = some 0 ∧
      (∀ a, a ≠ (headAddr s.cfg).toNat → a ≠ (nextAddr (headAddr s.cfg)).toNat →
        Memory.read t.mem a = Memory.read s.mem a)) ∧
    (∃ t, exec .bootTail s = .next t ∧
      t = { s with bseq := s.bseq + 1, tail := 0, mem := t.mem,
                   events := s.events ++ [.ringWrite (tailAddr s.cfg) 0] } ∧
      Memory.read16 t.mem (tailAddr s.cfg) = some 0 ∧
      (∀ a, a ≠ (tailAddr s.cfg).toNat → a ≠ (nextAddr (tailAddr s.cfg)).toNat →
        Memory.read t.mem a = Memory.read s.mem a))

/-- BOOT.DIAG0, BOOT.DIAG1, BOOT.DIAG2 each push one diagnostic entry of the configuration and write nothing else
(spec/70_reset_and_hazards.md R199; the index step is the model's, log entry 21). -/
def Obligations.BootDiagPushesEntries : Prop :=
  ∀ s : State, s.cfg.isLegal = true → s.tail.toNat < s.cfg.ringN →
    (∃ t, exec .bootDiag0 s = .next t ∧ pushesEntry s.cfg.diag0.value s.cfg.diag0.payload s t ∧
      t = { s with bseq := s.bseq + 1, tail := t.tail, mem := t.mem, events := t.events }) ∧
    (∃ t, exec .bootDiag1 s = .next t ∧ pushesEntry s.cfg.diag1.value s.cfg.diag1.payload s t ∧
      t = { s with bseq := s.bseq + 1, tail := t.tail, mem := t.mem, events := t.events }) ∧
    (∃ t, exec .bootDiag2 s = .next t ∧ pushesEntry s.cfg.diag2.value s.cfg.diag2.payload s t ∧
      t = { s with bseq := s.bseq + 1, tail := t.tail, mem := t.mem, events := t.events })

/-- BOOT.RUN sets the phase and writes nothing else (spec/70_reset_and_hazards.md R200). -/
def Obligations.BootRunStartsTheLoop : Prop :=
  ∀ s : State, exec .bootRun s = .next { s with phase := .run }

/-! ### Shared procedures and arithmetic -/

/-- `PUSH` with any value and payload: the three writes in order, whatever stands in memory, `head` included
(spec/44_ring_write.md R142). -/
def Obligations.PushWritesEntryThenTail : Prop :=
  ∀ (s : State) (v p : Half), s.cfg.isLegal = true → s.tail.toNat < s.cfg.ringN →
    pushesEntry v p s (push v p s) ∧
    push v p s = { s with tail := (push v p s).tail, mem := (push v p s).mem, events := (push v p s).events }

/-- Write-then-publish: of the three beats of a `PUSH`, an agent that has seen the first `k`, in their order, sees the new
tail only if it sees the whole entry, and still sees the old tail until the last beat (spec/20_memory.md R46). -/
def Obligations.TailIsPublishedAfterTheEntry : Prop :=
  ∀ (s : State) (v p : Half) (k : Nat), s.cfg.isLegal = true → s.tail.toNat < s.cfg.ringN →
    Memory.read16 s.mem (tailAddr s.cfg) = some s.tail →
    ∃ beats, (push v p s).events = s.events ++ beats ∧
      beats = [.ringWrite (valueAddr s.cfg s.tail) v, .ringWrite (payloadAddr s.cfg s.tail) p,
        .ringWrite (tailAddr s.cfg) (push v p s).tail] ∧
      (k < 3 → Memory.read16 (replay (beats.take k) s.mem) (tailAddr s.cfg) = some s.tail) ∧
      (Memory.read16 (replay (beats.take k) s.mem) (tailAddr s.cfg) = some (push v p s).tail →
        Memory.read16 (replay (beats.take k) s.mem) (valueAddr s.cfg s.tail) = some v ∧
        Memory.read16 (replay (beats.take k) s.mem) (payloadAddr s.cfg s.tail) = some p)

/-- The addresses of a legal ring are the sums of spec/20_memory.md R42, none of which wraps. -/
def Obligations.RingAddressesAreTheLayout : Prop :=
  ∀ c : Config, c.isLegal = true →
    (headAddr c).toNat = c.ringBase ∧ (tailAddr c).toNat = c.ringBase + 2 ∧
    ∀ k : Half, k.toNat < c.ringN →
      (valueAddr c k).toNat = c.ringBase + 4 + 4 * k.toNat ∧ (payloadAddr c k).toNat = c.ringBase + 6 + 4 * k.toNat

/-- `MemWrite` and `MemRead` of 16-bit words are little-endian and inverse to each other, at every address but the last of
the address space (spec/20_memory.md R41). For an odd address R43 defines no behaviour; that it is treated likewise is the
model's choice, log entry 27. -/
def Obligations.WordsAreLittleEndian : Prop :=
  ∀ (m : Memory) (a : Addr) (v : Half), a.toNat + 1 < 2 ^ 32 →
    Memory.read (Memory.write16 m a v) a.toNat = some (v.extractLsb' 0 8) ∧
    Memory.read (Memory.write16 m a v) (a.toNat + 1) = some (v.extractLsb' 8 8) ∧
    (∀ x, x ≠ a.toNat → x ≠ a.toNat + 1 → Memory.read (Memory.write16 m a v) x = Memory.read m x) ∧
    Memory.read16 (Memory.write16 m a v) a = some v ∧
    (∀ lo hi : Byte, Memory.read m a.toNat = some lo → Memory.read m (a.toNat + 1) = some hi →
      ∃ w, Memory.read16 m a = some w ∧ w.toNat = lo.toNat + 256 * hi.toNat)

/-- The interval is the modular tick difference, floored by the scale, and its low 16 bits
(spec/44_ring_write.md R143 a to c). -/
def Obligations.IntervalArithmetic : Prop :=
  ∀ s : State, 1 ≤ s.cfg.intervalScale →
    ((interval s).toNat : ℤ) =
      (((s.now.toNat : ℤ) - s.lastByteTick.toNat) % 2 ^ 32) / s.cfg.intervalScale % 2 ^ 16

/-- After AWAIT.EDGE at tick `now_e`, a later read `n` gives `elapsed = sub32(n, now_e) + LATENCY_COMP` modulo 2^32
(spec/40_timing_scheduler.md R83); for an illegal LATENCY_COMP of 2^32 or more by the model's choice, log entry 26. -/
def Obligations.ElapsedAfterEdge : Prop :=
  ∀ (s : State) (n : Tick), ∃ t, exec .awaitEdge s = .next t ∧
    ((elapsed { t with now := n }).toNat : ℤ) = ((n.toNat : ℤ) - s.now.toNat + s.cfg.latencyComp) % 2 ^ 32

/-- Counting `n` valid bytes from a cleared counter: the counter is `n` modulo the period and the indicator has toggled once
per full period (spec/45_link_indicator.md R153), for a period that the 8-bit counter can hold. -/
def Obligations.IndicatorTogglesEveryPeriod : Prop :=
  ∀ (s : State) (n : Nat), 1 ≤ s.cfg.indicatorPeriod → s.cfg.indicatorPeriod ≤ 256 → s.byteCounter = 0 →
    (countValidByte^[n] s).byteCounter.toNat = n % s.cfg.indicatorPeriod ∧
    (countValidByte^[n] s).indicator = (s.indicator ^^ (n / s.cfg.indicatorPeriod % 2 == 1))

/-- Pushing fewer than N entries into an empty ring leaves the tail at their number; the (N+1)-th overwrites slot 0 and
leaves the tail at 1; `head` is untouched throughout (spec/44_ring_write.md R145). -/
def Obligations.PushesFillThenOverwrite : Prop :=
  ∀ (s : State) (es : List RingEntry), s.cfg.isLegal = true → s.tail = 0 →
    Memory.read16 s.mem (headAddr s.cfg) = some 0 →
    Memory.read16 (pushAll es s).mem (headAddr s.cfg) = some 0 ∧
    (es.length < s.cfg.ringN → (pushAll es s).tail.toNat = es.length) ∧
    (es.length = s.cfg.ringN + 1 → (pushAll es s).tail.toNat = 1 ∧
      ∃ e, es.getLast? = some e ∧ Memory.read16 (pushAll es s).mem (valueAddr s.cfg 0) = some e.value ∧
        Memory.read16 (pushAll es s).mem (payloadAddr s.cfg 0) = some e.payload)

/-! ### Steps -/

/-- Every operation names a next state in every state: none raises an exception (spec/60_exceptions.md R170). -/
def Obligations.EveryOperationAnswersNext : Prop :=
  ∀ (i : Instr) (s : State), ∃ t, exec i s = .next t

/-- In phase RUN a step without reset is one iteration: the operation its selector decodes to, executed after the reads; then
`prev <- cur`; then the shutdown check (spec/41_bit_sampler.md R90). That the other agents' writes come before all of it is
the model's choice, log entry 9, as is what such a write does at an odd address, log entry 27; that the three reads are latched
together is log entry 19. -/
def Obligations.RunStepIsOneIteration : Prop :=
  ∀ (s : State) (i : Instr), s.phase = .run → (nextInput s).reset = false →
    iterationStart s =
      { s with mem := (nextInput s).agentWrites.foldl (fun m a => Memory.write16 m a.addr a.data) s.mem,
               now := (nextInput s).tick, cur := (nextInput s).line, shut := (nextInput s).shutdown,
               inputs := s.inputs.tail, inputIdx := s.inputIdx + 1 } ∧
    (decodeStep (sel (iterationStart s)) = .ok i →
      ∃ t, exec i (iterationStart s) = .next t ∧
        step s = .next (if (nextInput s).shutdown
          then { t with prev := (nextInput s).line, phase := .halted, events := t.events ++ [.complete] }
          else { t with prev := (nextInput s).line }))

/-- In phase BOOT a step without reset is the start-up operation its index decodes to, and reads no port; the reserved index
is refused by name (spec/70_reset_and_hazards.md R193, spec/30_encoding.md R65). That the other agents' writes come before
the operation is the model's choice, log entry 9; the refusal is log entry 15. -/
def Obligations.BootStepRunsTheIndexedOperation : Prop :=
  ∀ s : State, s.phase = .boot → (nextInput s).reset = false →
    (∀ i, decodeBoot s.bseq = .ok i → step s = exec i (agentsWrite (nextInput s).agentWrites (takeInput s))) ∧
    (s.bseq = 7 → step s = .refused (.reservedSelector .reservedBootIndex))

/-- Every step, in every state and under every input, answers a next state, but for the start-up step with the reserved
index, which is refused by name (spec/60_exceptions.md R170; the refusal is log entry 15). In HALTED and CFG_FAULT
the block has no step (spec/10_state.md R12); that the machine's step answers a next state there is the model's choice, log
entry 8. -/
def Obligations.StepStopsOnlyOnTheReservedIndex : Prop :=
  ∀ s : State,
    (¬((nextInput s).reset = false ∧ s.phase = .boot ∧ s.bseq = 7) → ∃ t, step s = .next t) ∧
    ((nextInput s).reset = false → s.phase = .boot → s.bseq = 7 →
      step s = .refused (.reservedSelector .reservedBootIndex))

/-- The reset input, in any phase: every register takes its reset value, the phase is BOOT, and memory counts as unwritten
(spec/70_reset_and_hazards.md R190; that memory is cleared is log entry 7, the ports' reset values log entry 5). -/
def Obligations.ResetInputRestoresResetState : Prop :=
  ∀ s : State, (nextInput s).reset = true →
    step s = .next { State.resetWith s.cfg with inputs := s.inputs.tail, inputIdx := s.inputIdx + 1 }

/-- The registers after reset, for every configuration (spec/10_state.md R23; `tail` is the model's choice, log entry 5). That
`State.reset` has the reference configuration is the model's choice too, log entry 2. -/
def Obligations.ResetRegisterValues : Prop :=
  ∀ c : Config, let s := State.resetWith c
    s.cfg = c ∧ s.phase = .boot ∧ s.bseq = 0 ∧ s.st = .idle ∧ s.prev = c.prevReset ∧ s.idleCnt = 0 ∧ s.lowCnt = 0 ∧
    s.startTick = 0 ∧ s.dataByte = 0 ∧ s.bitIndex = 1 ∧ s.bitMask = 1 ∧ s.lastByteTick = c.lastByteTickReset ∧
    s.linkCountdown = 0 ∧ s.byteCounter = 0 ∧ s.indicator = false ∧ s.tail = 0 ∧ s.events = [] ∧
    (∀ a, Memory.read s.mem a = none) ∧ State.reset = State.resetWith Config.reference

/-- Where the table has no entry to compare with, no sample is due: the state's waiting operation is selected. With a legal
table that is so only in ReadingData with a `bitIndex` above 10, where no run gets (spec/30_encoding.md R61, "otherwise 0";
that this covers a missing entry is the model's reading, log entry 16).
The indices 0, 9 and 10 have an entry, log entry 29. -/
def Obligations.MissingTableEntryIsNotDue : Prop :=
  ∀ s : State,
    (s.st = .confirm → s.cfg.offsets[0]? = none → selectsBy s 0xE4 0x40 .confWait) ∧
    (s.st = .data → s.cfg.offsets[s.bitIndex.toNat]? = none → selectsBy s 0xE4 0x60 .dataWait) ∧
    (s.st = .stop → s.cfg.offsets[9]? = none → selectsBy s 0xE4 0x80 .stopWait) ∧
    (s.cfg.isLegal = true →
      ((∃ k, dueIndex s = some k ∧ s.cfg.offsets[k]? = none) ↔ s.st = .data ∧ 10 < s.bitIndex.toNat))

/-- From reset with a legal configuration, seven steps in which nobody resets the block or writes to memory run the start-up
sequence: eleven writes in order, then the state in which the first iteration begins
(spec/70_reset_and_hazards.md R193, R194). -/
def Obligations.StartUpSequence : Prop :=
  ∀ (c : Config) (is rest : List Input), c.isLegal = true → is.length = 7 →
    (∀ i ∈ is, i.reset = false ∧ i.agentWrites = []) →
    ∃ t, runSteps 7 { State.resetWith c with inputs := is ++ rest } = .next t ∧
      t = { State.resetWith c with phase := .run, bseq := t.bseq, tail := 3, mem := t.mem, events := t.events,
                                   inputs := rest, inputIdx := 7 } ∧
      t.events =
        [.ringWrite (headAddr c) 0, .ringWrite (tailAddr c) 0,
         .ringWrite (valueAddr c 0) c.diag0.value, .ringWrite (payloadAddr c 0) c.diag0.payload,
         .ringWrite (tailAddr c) 1,
         .ringWrite (valueAddr c 1) c.diag1.value, .ringWrite (payloadAddr c 1) c.diag1.payload,
         .ringWrite (tailAddr c) 2,
         .ringWrite (valueAddr c 2) c.diag2.value, .ringWrite (payloadAddr c 2) c.diag2.payload,
         .ringWrite (tailAddr c) 3] ∧
      Memory.read16 t.mem (headAddr c) = some 0 ∧ Memory.read16 t.mem (tailAddr c) = some 3 ∧
      Memory.read16 t.mem (valueAddr c 0) = some c.diag0.value ∧
      Memory.read16 t.mem (payloadAddr c 0) = some c.diag0.payload ∧
      Memory.read16 t.mem (valueAddr c 1) = some c.diag1.value ∧
      Memory.read16 t.mem (payloadAddr c 1) = some c.diag1.payload ∧
      Memory.read16 t.mem (valueAddr c 2) = some c.diag2.value ∧
      Memory.read16 t.mem (payloadAddr c 2) = some c.diag2.payload ∧
      (∀ a, (a < c.ringBase ∨ c.ringBase + 16 ≤ a) → Memory.read t.mem a = none)

/-- From reset with an illegal configuration the block refuses: after any positive number of steps in which nobody resets it
or writes to memory it is in CFG_FAULT, and has written nothing and emitted nothing (spec/60_exceptions.md R171).
In CFG_FAULT the block has no step (spec/10_state.md R12): that the machine's step answers a next state there is the model's
choice, log entry 8. What is illegal includes what log entry 24 reads into the list of R171. -/
def Obligations.IllegalConfigNeverRuns : Prop :=
  ∀ (c : Config) (is : List Input), c.isLegal = false → is ≠ [] →
    (∀ i ∈ is, i.reset = false ∧ i.agentWrites = []) →
    runSteps is.length { State.resetWith c with inputs := is } =
      .next { State.resetWith c with phase := .cfgFault, inputs := [], inputIdx := is.length }

/-- In HALTED and in CFG_FAULT the block reads, writes and emits nothing, for as long as nobody resets it: memory is what the
other agents' writes, in their order, make of it, and nothing else changes (spec/10_state.md R12, spec/41_bit_sampler.md
R96). That the machine's step answers a next state there is the model's choice, log entry 8, as is what a
foreign write does at an odd address, log entry 27. -/
def Obligations.NoStepAfterTheHalt : Prop :=
  ∀ (s : State) (is rest : List Input), s.phase = .halted ∨ s.phase = .cfgFault → s.inputs = is ++ rest →
    (∀ i ∈ is, i.reset = false) →
    runSteps is.length s =
      .next { s with
        mem := is.foldl (fun m i => i.agentWrites.foldl (fun m a => Memory.write16 m a.addr a.data) m) s.mem,
        inputs := rest, inputIdx := s.inputIdx + is.length }

/-- A stop request read in an iteration halts the block in that iteration, in any decoder state, after the operation and its
writes: COMPLETE is the last thing driven (spec/46_shutdown.md R160, R164). -/
def Obligations.ShutdownHaltsWithinTheIteration : Prop :=
  ∀ s : State, s.phase = .run → (nextInput s).reset = false → (nextInput s).shutdown = true →
    ∃ i u t, exec i (iterationStart s) = .next u ∧ decodeStep (sel (iterationStart s)) = .ok i ∧
      step s = .next t ∧ t = { u with prev := (nextInput s).line, phase := .halted, events := u.events ++ [.complete] }

/-! ### Whole-machine rules -/

/-- The state graph: an operation is selected only in the states spec/30_encoding.md R66 gives it, writes the state R66 gives
it, and no operation writes it otherwise. -/
def Obligations.StateFollowsTransitionTable : Prop :=
  ∀ (i : Instr) (s t : State), exec i s = .next t →
    t.st = (transition i).2.getD s.st ∧
    (decodeStep (sel s) = .ok i → s.st ∈ (transition i).1)

/-- The countdown is decremented, saturating at 0, by AWAIT.AGE and set to LINK_SENTINEL by STOP.VALID; no other operation
writes it (spec/45_link_indicator.md R151, R152). A LINK_SENTINEL of 2^32 or more is illegal, and what it sets is the
model's choice (log entry 26), of which nothing is stated. -/
def Obligations.CountdownMovesOnlyByAgeAndValid : Prop :=
  ∀ (i : Instr) (s t : State), exec i s = .next t →
    (i = .awaitAge → t.linkCountdown.toNat = s.linkCountdown.toNat - 1) ∧
    (i = .stopValid → s.cfg.linkSentinel < 2 ^ 32 → t.linkCountdown.toNat = s.cfg.linkSentinel) ∧
    (i ≠ .awaitAge → i ≠ .stopValid → t.linkCountdown = s.linkCountdown)

/-- None of the nine frame-alignment operations touches memory or emits anything, reads the byte, the index, the mask or the
last tick, or touches a cosmetic register but `linkCountdown`, which AWAIT.AGE alone touches
(spec/42_frame_alignment.md R109). With other values in memory and in those four registers the whole result is the same,
but for those values themselves, which stay; CONF.OK alone overwrites three of them, with the same values. -/
def Obligations.FrameAlignmentTouchesNoMemory : Prop :=
  ∀ (i : Instr) (s t : State), exec i s = .next t →
    i ∈ [Instr.idleClr, .idleCnt, .idleArm, .awaitAge, .awaitCnt, .awaitEdge, .confWait, .confOk, .confFalse] →
    t.mem = s.mem ∧ t.events = s.events ∧ t.byteCounter = s.byteCounter ∧ t.indicator = s.indicator ∧
    (i ≠ .awaitAge → t.linkCountdown = s.linkCountdown) ∧
    ∀ (m : Memory) (b : Byte) (k : BitVec 4) (x : Half) (l : Tick),
      (i ≠ .confOk → exec i { s with mem := m, dataByte := b, bitIndex := k, bitMask := x, lastByteTick := l } =
        .next { t with mem := m, dataByte := b, bitIndex := k, bitMask := x, lastByteTick := l }) ∧
      (i = .confOk → exec i { s with mem := m, dataByte := b, bitIndex := k, bitMask := x, lastByteTick := l } =
        .next { t with mem := m, lastByteTick := l })

/-- In an iteration an entry is pushed exactly when the decoder leaves ReadingStop: then three beats are driven, and otherwise
none; COMPLETE is emitted exactly when the request was read (spec/43_accumulator.md R128, spec/41_bit_sampler.md R90). -/
def Obligations.OneEntryPerFrame : Prop :=
  ∀ s t : State, s.phase = .run → (nextInput s).reset = false → step s = .next t →
    (if s.st = .stop ∧ t.st = .await
      then ∃ v p, t.events = s.events ++
        [.ringWrite (valueAddr s.cfg s.tail) v, .ringWrite (payloadAddr s.cfg s.tail) p, .ringWrite (tailAddr s.cfg) t.tail]
        ++ (if (nextInput s).shutdown then [.complete] else [])
      else t.tail = s.tail ∧ t.events = s.events ++ (if (nextInput s).shutdown then [.complete] else []))

/-- The configuration, the timing table in it, is never written (spec/10_state.md R16). -/
def Obligations.ConfigurationNeverChanges : Prop :=
  ∀ (k : Nat) (s t : State), runSteps k s = .next t → t.cfg = s.cfg

/-- The block writes `head` in BOOT.HEAD and never again: in every other step in which no other agent writes and nobody
resets the block, the word is as before (spec/70_reset_and_hazards.md R197). -/
def Obligations.HeadIsWrittenOnceAtStartUp : Prop :=
  ∀ s t : State, Inv s → step s = .next t → (nextInput s).reset = false → (nextInput s).agentWrites = [] →
    ¬(s.phase = .boot ∧ s.bseq = 1) → s.cfg.isLegal = true →
    Memory.read16 t.mem (headAddr s.cfg) = Memory.read16 s.mem (headAddr s.cfg)

/-- Every write the block drives in a step lies whole in the ring region at an even address (spec/20_memory.md R43,
spec/10_state.md R21). -/
def Obligations.WritesStayInTheRingRegion : Prop :=
  ∀ s t : State, Inv s → step s = .next t → (nextInput s).reset = false →
    ∃ new, t.events = s.events ++ new ∧
      ∀ a v, .ringWrite a v ∈ new → a.toNat % 2 = 0 ∧ inRing s.cfg a.toNat ∧ inRing s.cfg (a.toNat + 1)

/-- After a step without reset, memory is what it was, then the other agents' writes, then the beats the step drove, in their
order; nothing else changes it (spec/20_memory.md R45, R47 b). That all of the other agents' writes come before all of the
beats is the model's choice, log entry 9, as is what a write does at an odd address, log entry 27. -/
def Obligations.MemoryIsTheReplayOfTheWrites : Prop :=
  ∀ s t : State, step s = .next t → (nextInput s).reset = false →
    ∃ new, t.events = s.events ++ new ∧
      t.mem = replay new ((nextInput s).agentWrites.foldl (fun m a => Memory.write16 m a.addr a.data) s.mem)

/-- Every step keeps memory in its canonical form, addresses strictly rising. The form is the model's own representation of
memory (log entry 6), not the spec's. -/
def Obligations.StepsKeepMemoryCanonical : Prop :=
  ∀ s t : State, Memory.wf s.mem → step s = .next t → Memory.wf t.mem

/-- The invariants hold right after reset, for every configuration, the reference one included.
The canonical form of memory, which `Inv` includes, is the model's own, log entry 6; the reset values the model chose are log
entries 2 and 5. -/
def Obligations.InvariantsHoldAfterReset : Prop :=
  Inv State.reset ∧ ∀ (c : Config) (is : List Input), Inv { State.resetWith c with inputs := is }

/-- From every state that meets the invariants V1 to V8, if the other agents keep their roles in this step, the step answers
a next state, and that state meets them (spec/10_state.md R20).
In HALTED and CFG_FAULT the block has no step (R12): that the machine's step answers a next state there is the model's choice,
log entry 8. The canonical form of memory, which `Inv` includes, is the model's own, log entry 6. -/
def Obligations.EveryStepKeepsTheInvariants : Prop :=
  ∀ s : State, Inv s → keepsRoles s.cfg (nextInput s) → ∃ t, step s = .next t ∧ Inv t

/-- Memory does not influence the block: two states that differ only in memory, stepped under inputs that differ only in what
other agents write, end in states that differ only in memory, having driven the same (spec/20_memory.md R52). -/
def Obligations.MemoryDoesNotInfluenceTheBlock : Prop :=
  ∀ (s t s' : State) (ws : List AgentWrite), sameButMemory s t → step s = .next s' →
    ∃ t', stepUnder { nextInput s with agentWrites := ws } (takeInput t) = .next t' ∧ sameButMemory s' t'

/-- The cosmetic registers do not influence the block: over any number of steps, two states that differ only in them end in
states that differ only in them, with the same writes, transitions and completion events (spec/45_link_indicator.md
R150). -/
def Obligations.CosmeticRegistersDoNotInfluenceTheBlock : Prop :=
  ∀ (k : Nat) (s t s' : State), sameButCosmetic s t → runSteps k s = .next s' →
    ∃ t', runSteps k t = .next t' ∧ sameButCosmetic s' t'

/-- The idle line arms the decoder on exactly the IDLE_THRESHOLD-th consecutive high pair (spec/42_frame_alignment.md R102):
from Idle with a cleared counter and a high previous read, `n` high iterations count to `n`, or arm if `n` is the
threshold. -/
def Obligations.IdleLineArmsAtTheThreshold : Prop :=
  ∀ (s : State) (ticks : List Tick) (rest : List Input), s.phase = .run → s.st = .idle → s.prev = true → s.idleCnt = 0 →
    1 ≤ s.cfg.idleThreshold → s.cfg.idleThreshold ≤ 2 ^ 32 → ticks.length ≤ s.cfg.idleThreshold →
    s.inputs = ticks.map (fun n => Input.quiet n true false) ++ rest →
    ∃ t, runSteps ticks.length s = .next t ∧
      t = { s with st := t.st, idleCnt := t.idleCnt, now := t.now, cur := t.cur, shut := t.shut, inputs := rest,
                   inputIdx := s.inputIdx + ticks.length } ∧
      (ticks.length < s.cfg.idleThreshold → t.st = .idle ∧ t.idleCnt.toNat = ticks.length) ∧
      (ticks.length = s.cfg.idleThreshold → t.st = .await ∧ t.idleCnt = 0)

/-- A whole frame: from ConfirmingStart, ten iterations whose ticks reach the ten offsets in turn, however late, and whose
line reads are a low start bit, the eight bits of a byte least-significant first, and a stop level, push exactly one entry
with that byte; its value is the interval for a high stop bit and 0 for a low one, and the decoder is back in
AwaitingStart (spec/40_timing_scheduler.md R86, spec/43_accumulator.md R126, R128). -/
def Obligations.FrameOfDueSamplesPushesItsByte : Prop :=
  ∀ (s : State) (ticks : Nat → Tick) (byte : Byte) (stop : Bool) (rest : List Input),
    s.cfg.isLegal = true → s.tail.toNat < s.cfg.ringN → s.phase = .run → s.st = .confirm →
    (∀ k, k < 10 → ∃ o, s.cfg.offsets[k]? = some o ∧ o ≤ (ticks k - s.startTick).toNat) →
    s.inputs = (List.range 10).map (fun k => Input.quiet (ticks k) (cellLevel byte stop k) false) ++ rest →
    ∃ t, runSteps 10 s = .next t ∧ t.phase = .run ∧ t.st = .await ∧ t.prev = stop ∧ t.dataByte = byte ∧
      t.inputs = rest ∧
      pushesEntry
        (if stop then BitVec.ofNat 16 ((ticks 9 - s.lastByteTick).toNat / s.cfg.intervalScale) else 0)
        (byte.setWidth 16) s t ∧
      t.lastByteTick = (if stop then ticks 9 else s.lastByteTick)
end

