-- ==== Sys2Proof/Laws/Decode.lean ====
section
/-! SUPPORT. What the decoder reads from the selector an iteration computes, state by state. -/

namespace Sys2Proof.Machine

open Sys2Proof

theorem decode_packSel_idle (m h d c l : Bool) :
    decodeStep (packSel .idle m h d c l) = .ok (if m then (if h then .idleArm else .idleCnt) else .idleClr) := by
  cases m <;> cases h <;> cases d <;> cases c <;> cases l <;> rfl

theorem decode_packSel_await (m h d c l : Bool) :
    decodeStep (packSel .await m h d c l) = .ok (if m then (if h then .awaitEdge else .awaitCnt) else .awaitAge) := by
  cases m <;> cases h <;> cases d <;> cases c <;> cases l <;> rfl

theorem decode_packSel_confirm (m h d c l : Bool) :
    decodeStep (packSel .confirm m h d c l) = .ok (if d then (if c then .confFalse else .confOk) else .confWait) := by
  cases m <;> cases h <;> cases d <;> cases c <;> cases l <;> rfl

theorem decode_packSel_data (m h d c l : Bool) :
    decodeStep (packSel .data m h d c l) = .ok (if d then (if l then .dataLast c else .dataBit c) else .dataWait) := by
  cases m <;> cases h <;> cases d <;> cases c <;> cases l <;> rfl

theorem decode_packSel_stop (m h d c l : Bool) :
    decodeStep (packSel .stop m h d c l) = .ok (if d then (if c then .stopValid else .stopInvalid) else .stopWait) := by
  cases m <;> cases h <;> cases d <;> cases c <;> cases l <;> rfl

theorem decode_packSel_rsvd5 (m h d c l : Bool) : decodeStep (packSel .rsvd5 m h d c l) = .ok .rsvdReset5 := by
  cases m <;> cases h <;> cases d <;> cases c <;> cases l <;> rfl

theorem decode_packSel_rsvd6 (m h d c l : Bool) : decodeStep (packSel .rsvd6 m h d c l) = .ok .rsvdReset67 := by
  cases m <;> cases h <;> cases d <;> cases c <;> cases l <;> rfl

theorem decode_packSel_rsvd7 (m h d c l : Bool) : decodeStep (packSel .rsvd7 m h d c l) = .ok .rsvdReset67 := by
  cases m <;> cases h <;> cases d <;> cases c <;> cases l <;> rfl

/-- Every selector an iteration computes names an operation. -/
theorem decode_packSel_ok (st : DecoderState) (m h d c l : Bool) :
    ∃ i, decodeStep (packSel st m h d c l) = .ok i := by
  cases st
  · exact ⟨_, decode_packSel_idle ..⟩
  · exact ⟨_, decode_packSel_await ..⟩
  · exact ⟨_, decode_packSel_confirm ..⟩
  · exact ⟨_, decode_packSel_data ..⟩
  · exact ⟨_, decode_packSel_stop ..⟩
  · exact ⟨_, decode_packSel_rsvd5 ..⟩
  · exact ⟨_, decode_packSel_rsvd6 ..⟩
  · exact ⟨_, decode_packSel_rsvd7 ..⟩

/-- The HALT selector names HALT.STOP exactly when it is 1. -/
theorem decodeHalt_ofBool (b : Bool) : decodeHalt (BitVec.ofBool b) = .ok (if b then .haltStop else .haltCont) := by
  cases b <;> rfl

end Sys2Proof.Machine
end

