-- ==== Sys2Proof/Laws/Legality.lean ====
section
/-! SUPPORT. What a legal `Config` gives (spec/00_scope.md R4), once. -/

namespace Sys2Proof

/-- A `Config` is legal exactly when every constraint holds. -/
theorem isLegal_iff (c : Config) : c.isLegal = true ↔
    (c.baud = 19200 ∨ c.baud = 57600 ∨ c.baud = 115200 ∨ c.baud = 125000) ∧ 1 ≤ c.tickHz ∧ c.offsets.length = 11 ∧
    (∀ o ∈ c.offsets, o < 2 ^ 32) ∧ strictlyIncreasing c.offsets = true ∧ c.tableSpanOk = true ∧
    1 ≤ c.idleThreshold ∧ 1 ≤ c.startThreshold ∧ c.latencyComp < 2 ^ 32 ∧ 1 ≤ c.intervalScale ∧
    1 ≤ c.indicatorPeriod ∧ c.linkSentinel < 2 ^ 32 ∧ (4 ≤ c.ringN ∧ c.ringN ≤ 65536) ∧ c.ringBase % 4 = 0 ∧
    c.ringBase + 4 + 4 * c.ringN ≤ 2 ^ 32 := by
  simp only [Config.isLegal, Config.violations, Config.constraints, List.isEmpty_iff, List.map_eq_nil_iff,
    List.filter_eq_nil_iff, List.mem_cons, List.not_mem_nil, or_false, forall_eq_or_imp, forall_eq,
    Bool.not_eq_true, Bool.not_eq_false', Bool.or_eq_true, Bool.and_eq_true, beq_iff_eq, decide_eq_true_eq,
    List.all_eq_true, or_assoc]

/-- The capacity bounds of a legal `Config`. -/
theorem legal_ringN {c : Config} (h : c.isLegal = true) : 4 ≤ c.ringN ∧ c.ringN ≤ 65536 := by
  have := (isLegal_iff c).mp h
  tauto

/-- The region of a legal `Config` lies in the address space, at a multiple of 4. -/
theorem legal_region {c : Config} (h : c.isLegal = true) :
    c.ringBase % 4 = 0 ∧ c.ringBase + 4 + 4 * c.ringN ≤ 2 ^ 32 := by
  have := (isLegal_iff c).mp h
  tauto

/-- The table of a legal `Config` has an entry for every index 0 to 10, below 2^32. -/
theorem legal_offset {c : Config} (h : c.isLegal = true) {k : Nat} (hk : k ≤ 10) :
    ∃ o, c.offsets[k]? = some o ∧ o < 2 ^ 32 := by
  obtain ⟨-, -, hlen, hw, -⟩ := (isLegal_iff c).mp h
  have hlt : k < c.offsets.length := by omega
  exact ⟨c.offsets[k], List.getElem?_eq_getElem hlt, hw _ (List.getElem_mem hlt)⟩

/-- The scale, the thresholds and the period of a legal `Config` are positive. -/
theorem legal_positive {c : Config} (h : c.isLegal = true) :
    1 ≤ c.idleThreshold ∧ 1 ≤ c.startThreshold ∧ 1 ≤ c.intervalScale ∧ 1 ≤ c.indicatorPeriod := by
  have := (isLegal_iff c).mp h
  tauto

/-- The two constants of a legal `Config` that become register values fit 32 bits. -/
theorem legal_words {c : Config} (h : c.isLegal = true) : c.latencyComp < 2 ^ 32 ∧ c.linkSentinel < 2 ^ 32 := by
  have := (isLegal_iff c).mp h
  tauto

end Sys2Proof
end

