-- ==== Sys2Proof/Laws/Memory.lean ====
section
/-! SUPPORT. The laws of memory: read after write, what a write leaves alone, and that every memory operation keeps the
canonical form. -/

namespace Sys2Proof.Machine

open Sys2Proof

theorem read_nil (a : Nat) : Memory.read [] a = none := rfl

/-- A read after a write to the same address gives the byte written. -/
@[simp] theorem read_write_same (m : Memory) (a : Nat) (b : Byte) : Memory.read (Memory.write m a b) a = some b := by
  induction m with
  | nil => simp [Memory.write, Memory.read]
  | cons c rest ih =>
    obtain ⟨k, v⟩ := c
    simp only [Memory.write]
    split
    · simp [Memory.read]
    · split
      · simp [Memory.read]
      · rename_i h
        simp [Memory.read, Ne.symm h, ih]

/-- A write leaves every other address alone. -/
theorem read_write_ne (m : Memory) {a x : Nat} (b : Byte) (h : x ≠ a) :
    Memory.read (Memory.write m a b) x = Memory.read m x := by
  induction m with
  | nil => simp [Memory.write, Memory.read, Ne.symm h]
  | cons c rest ih =>
    obtain ⟨k, v⟩ := c
    simp only [Memory.write]
    split
    · simp [Memory.read, Ne.symm h]
    · split
      · rename_i _ hk
        subst hk
        simp [Memory.read, Ne.symm h]
      · simp [Memory.read, ih]

/-- Every entry of a memory after a write is the byte written or was there before. -/
theorem mem_write (m : Memory) (a : Nat) (b : Byte) : ∀ c ∈ Memory.write m a b, c.1 = a ∨ c ∈ m := by
  induction m with
  | nil => simp [Memory.write]
  | cons c rest ih =>
    obtain ⟨k, v⟩ := c
    intro d hd
    simp only [Memory.write] at hd
    split at hd
    · rcases List.mem_cons.mp hd with rfl | h
      · exact .inl rfl
      · exact .inr h
    · split at hd
      · rcases List.mem_cons.mp hd with rfl | h
        · exact .inl rfl
        · exact .inr (List.mem_cons_of_mem _ h)
      · rcases List.mem_cons.mp hd with rfl | h
        · exact .inr (by simp)
        · exact (ih d h).imp id (List.mem_cons_of_mem _)

/-- A write keeps the canonical form. -/
theorem write_wf (m : Memory) (a : Nat) (b : Byte) (h : Memory.wf m) : Memory.wf (Memory.write m a b) := by
  induction m with
  | nil => simp [Memory.write]
  | cons c rest ih =>
    obtain ⟨k, v⟩ := c
    obtain ⟨hk, hrest⟩ := List.pairwise_cons.mp h
    simp only [Memory.write]
    split
    · rename_i hlt
      refine List.pairwise_cons.mpr ⟨fun d hd => ?_, h⟩
      rcases List.mem_cons.mp hd with rfl | hd
      · exact hlt
      · exact lt_trans hlt (hk d hd)
    · split
      · rename_i _ heq
        subst heq
        exact List.pairwise_cons.mpr ⟨hk, hrest⟩
      · rename_i hlt hne
        refine List.pairwise_cons.mpr ⟨fun d hd => ?_, ih hrest⟩
        rcases mem_write rest a b d hd with h | h
        · exact h ▸ lt_of_le_of_ne (not_lt.mp hlt) (Ne.symm hne)
        · exact hk d h

/-- A 16-bit write keeps the canonical form. -/
theorem write16_wf (m : Memory) (a : Addr) (v : Half) (h : Memory.wf m) : Memory.wf (Memory.write16 m a v) :=
  write_wf _ _ _ (write_wf _ _ _ h)

/-- The other agents' writes keep the canonical form. -/
theorem agents_wf (ws : List AgentWrite) (m : Memory) (h : Memory.wf m) :
    Memory.wf (ws.foldl (fun m w => Memory.write16 m w.addr w.data) m) := by
  induction ws generalizing m with
  | nil => exact h
  | cons w ws ih => exact ih _ (write16_wf m w.addr w.data h)

theorem nextAddr_ne (a : Addr) : (nextAddr a).toNat ≠ a.toNat := by
  unfold nextAddr
  bv_omega

/-- A 16-bit write leaves alone every byte that is not one of its two. -/
theorem read_write16_ne (m : Memory) {a : Addr} {x : Nat} (v : Half) (h1 : x ≠ a.toNat) (h2 : x ≠ (nextAddr a).toNat) :
    Memory.read (Memory.write16 m a v) x = Memory.read m x := by
  rw [Memory.write16, read_write_ne _ _ h2, read_write_ne _ _ h1]

/-- The byte at the address of a 16-bit write holds bits 7 to 0 (spec/20_memory.md R41). -/
theorem read_write16_low (m : Memory) (a : Addr) (v : Half) :
    Memory.read (Memory.write16 m a v) a.toNat = some (v.extractLsb' 0 8) := by
  rw [Memory.write16, read_write_ne _ _ (nextAddr_ne a).symm, read_write_same]

/-- The byte after the address of a 16-bit write holds bits 15 to 8 (spec/20_memory.md R41). -/
theorem read_write16_high (m : Memory) (a : Addr) (v : Half) :
    Memory.read (Memory.write16 m a v) (nextAddr a).toNat = some (v.extractLsb' 8 8) := by
  rw [Memory.write16, read_write_same]

theorem half_of_bytes (v : Half) : (v.extractLsb' 8 8 ++ v.extractLsb' 0 8 : BitVec (8 + 8)) = v := by
  apply BitVec.eq_of_getLsbD_eq
  intro i hi
  simp only [BitVec.getLsbD_append, BitVec.getLsbD_extractLsb']
  by_cases h : i < 8
  · simp [h]
  · have h8 : i - 8 < 8 := by omega
    have hi8 : 8 + (i - 8) = i := by omega
    simp [h, h8, hi8]

/-- A 16-bit read after a 16-bit write to the same address gives the word written. -/
@[simp] theorem read16_write16_same (m : Memory) (a : Addr) (v : Half) :
    Memory.read16 (Memory.write16 m a v) a = some v := by
  simp only [Memory.read16, read_write16_low, read_write16_high]
  exact congrArg some (half_of_bytes v)

/-- A 16-bit write leaves alone every 16-bit word that shares no byte with it. -/
theorem read16_write16_ne (m : Memory) {a b : Addr} (v : Half) (h : b ≠ a) (h1 : b ≠ nextAddr a) (h2 : nextAddr b ≠ a) :
    Memory.read16 (Memory.write16 m a v) b = Memory.read16 m b := by
  have e1 : b.toNat ≠ a.toNat := fun e => h (BitVec.eq_of_toNat_eq e)
  have e2 : b.toNat ≠ (nextAddr a).toNat := fun e => h1 (BitVec.eq_of_toNat_eq e)
  have e3 : (nextAddr b).toNat ≠ a.toNat := fun e => h2 (BitVec.eq_of_toNat_eq e)
  have e4 : (nextAddr b).toNat ≠ (nextAddr a).toNat := by
    unfold nextAddr at *
    bv_omega
  simp only [Memory.read16, read_write16_ne m v e1 e2, read_write16_ne m v e3 e4]

/-- The other agents' writes leave alone every byte that is none of theirs. -/
theorem read_agents_ne (ws : List AgentWrite) (m : Memory) (x : Nat)
    (h : ∀ w ∈ ws, x ≠ w.addr.toNat ∧ x ≠ (nextAddr w.addr).toNat) :
    Memory.read (ws.foldl (fun m w => Memory.write16 m w.addr w.data) m) x = Memory.read m x := by
  induction ws generalizing m with
  | nil => rfl
  | cons w ws ih =>
    obtain ⟨hw, hws⟩ := List.forall_mem_cons.mp h
    rw [List.foldl_cons, ih _ hws, read_write16_ne m w.data hw.1 hw.2]

end Sys2Proof.Machine
end

