-- ==== Sys2Proof/Laws/State.lean ====
section
/-! SUPPORT. What each named update of the state does to each field, so that no later proof unfolds one. -/

namespace Sys2Proof.Machine

open Sys2Proof

/-! ### memWrite16: one beat of the ring write port -/

@[simp] theorem memWrite16_cfg (a : Addr) (v : Half) (s : State) : (memWrite16 a v s).cfg = s.cfg := rfl
@[simp] theorem memWrite16_phase (a : Addr) (v : Half) (s : State) : (memWrite16 a v s).phase = s.phase := rfl
@[simp] theorem memWrite16_bseq (a : Addr) (v : Half) (s : State) : (memWrite16 a v s).bseq = s.bseq := rfl
@[simp] theorem memWrite16_st (a : Addr) (v : Half) (s : State) : (memWrite16 a v s).st = s.st := rfl
@[simp] theorem memWrite16_prev (a : Addr) (v : Half) (s : State) : (memWrite16 a v s).prev = s.prev := rfl
@[simp] theorem memWrite16_idleCnt (a : Addr) (v : Half) (s : State) : (memWrite16 a v s).idleCnt =
    s.idleCnt := rfl
@[simp] theorem memWrite16_lowCnt (a : Addr) (v : Half) (s : State) : (memWrite16 a v s).lowCnt = s.lowCnt := rfl
@[simp] theorem memWrite16_startTick (a : Addr) (v : Half) (s : State) : (memWrite16 a v s).startTick =
    s.startTick := rfl
@[simp] theorem memWrite16_dataByte (a : Addr) (v : Half) (s : State) : (memWrite16 a v s).dataByte =
    s.dataByte := rfl
@[simp] theorem memWrite16_bitIndex (a : Addr) (v : Half) (s : State) : (memWrite16 a v s).bitIndex =
    s.bitIndex := rfl
@[simp] theorem memWrite16_bitMask (a : Addr) (v : Half) (s : State) : (memWrite16 a v s).bitMask =
    s.bitMask := rfl
@[simp] theorem memWrite16_lastByteTick (a : Addr) (v : Half) (s : State) : (memWrite16 a v s).lastByteTick =
    s.lastByteTick := rfl
@[simp] theorem memWrite16_linkCountdown (a : Addr) (v : Half) (s : State) : (memWrite16 a v s).linkCountdown =
    s.linkCountdown := rfl
@[simp] theorem memWrite16_byteCounter (a : Addr) (v : Half) (s : State) : (memWrite16 a v s).byteCounter =
    s.byteCounter := rfl
@[simp] theorem memWrite16_indicator (a : Addr) (v : Half) (s : State) : (memWrite16 a v s).indicator =
    s.indicator := rfl
@[simp] theorem memWrite16_tail (a : Addr) (v : Half) (s : State) : (memWrite16 a v s).tail = s.tail := rfl
@[simp] theorem memWrite16_mem (a : Addr) (v : Half) (s : State) : (memWrite16 a v s).mem =
    Memory.write16 s.mem a v := rfl
@[simp] theorem memWrite16_events (a : Addr) (v : Half) (s : State) : (memWrite16 a v s).events =
    s.events ++ [.ringWrite a v] := rfl
@[simp] theorem memWrite16_now (a : Addr) (v : Half) (s : State) : (memWrite16 a v s).now = s.now := rfl
@[simp] theorem memWrite16_cur (a : Addr) (v : Half) (s : State) : (memWrite16 a v s).cur = s.cur := rfl
@[simp] theorem memWrite16_shut (a : Addr) (v : Half) (s : State) : (memWrite16 a v s).shut = s.shut := rfl
@[simp] theorem memWrite16_inputs (a : Addr) (v : Half) (s : State) : (memWrite16 a v s).inputs = s.inputs := rfl
@[simp] theorem memWrite16_inputIdx (a : Addr) (v : Half) (s : State) : (memWrite16 a v s).inputIdx =
    s.inputIdx := rfl

/-! ### push: `PUSH` -/

@[simp] theorem push_cfg (v p : Half) (s : State) : (push v p s).cfg = s.cfg := rfl
@[simp] theorem push_phase (v p : Half) (s : State) : (push v p s).phase = s.phase := rfl
@[simp] theorem push_bseq (v p : Half) (s : State) : (push v p s).bseq = s.bseq := rfl
@[simp] theorem push_st (v p : Half) (s : State) : (push v p s).st = s.st := rfl
@[simp] theorem push_prev (v p : Half) (s : State) : (push v p s).prev = s.prev := rfl
@[simp] theorem push_idleCnt (v p : Half) (s : State) : (push v p s).idleCnt = s.idleCnt := rfl
@[simp] theorem push_lowCnt (v p : Half) (s : State) : (push v p s).lowCnt = s.lowCnt := rfl
@[simp] theorem push_startTick (v p : Half) (s : State) : (push v p s).startTick = s.startTick := rfl
@[simp] theorem push_dataByte (v p : Half) (s : State) : (push v p s).dataByte = s.dataByte := rfl
@[simp] theorem push_bitIndex (v p : Half) (s : State) : (push v p s).bitIndex = s.bitIndex := rfl
@[simp] theorem push_bitMask (v p : Half) (s : State) : (push v p s).bitMask = s.bitMask := rfl
@[simp] theorem push_lastByteTick (v p : Half) (s : State) : (push v p s).lastByteTick = s.lastByteTick := rfl
@[simp] theorem push_linkCountdown (v p : Half) (s : State) : (push v p s).linkCountdown = s.linkCountdown := rfl
@[simp] theorem push_byteCounter (v p : Half) (s : State) : (push v p s).byteCounter = s.byteCounter := rfl
@[simp] theorem push_indicator (v p : Half) (s : State) : (push v p s).indicator = s.indicator := rfl
@[simp] theorem push_tail (v p : Half) (s : State) : (push v p s).tail = incmod s.tail s.cfg.ringN := rfl
@[simp] theorem push_mem (v p : Half) (s : State) : (push v p s).mem =
    Memory.write16 (Memory.write16 (Memory.write16 s.mem (valueAddr s.cfg s.tail) v) (payloadAddr s.cfg s.tail) p)
      (tailAddr s.cfg) (incmod s.tail s.cfg.ringN) := rfl
@[simp] theorem push_events (v p : Half) (s : State) : (push v p s).events =
    s.events ++ [.ringWrite (valueAddr s.cfg s.tail) v, .ringWrite (payloadAddr s.cfg s.tail) p,
      .ringWrite (tailAddr s.cfg) (incmod s.tail s.cfg.ringN)] := by
  simp [push]
@[simp] theorem push_now (v p : Half) (s : State) : (push v p s).now = s.now := rfl
@[simp] theorem push_cur (v p : Half) (s : State) : (push v p s).cur = s.cur := rfl
@[simp] theorem push_shut (v p : Half) (s : State) : (push v p s).shut = s.shut := rfl
@[simp] theorem push_inputs (v p : Half) (s : State) : (push v p s).inputs = s.inputs := rfl
@[simp] theorem push_inputIdx (v p : Half) (s : State) : (push v p s).inputIdx = s.inputIdx := rfl

/-! ### pushDiag: the push of a diagnostic entry -/

@[simp] theorem pushDiag_cfg (e : RingEntry) (s : State) : (pushDiag e s).cfg = s.cfg := rfl
@[simp] theorem pushDiag_phase (e : RingEntry) (s : State) : (pushDiag e s).phase = s.phase := rfl
@[simp] theorem pushDiag_bseq (e : RingEntry) (s : State) : (pushDiag e s).bseq = s.bseq + 1 := rfl
@[simp] theorem pushDiag_st (e : RingEntry) (s : State) : (pushDiag e s).st = s.st := rfl
@[simp] theorem pushDiag_prev (e : RingEntry) (s : State) : (pushDiag e s).prev = s.prev := rfl
@[simp] theorem pushDiag_idleCnt (e : RingEntry) (s : State) : (pushDiag e s).idleCnt = s.idleCnt := rfl
@[simp] theorem pushDiag_lowCnt (e : RingEntry) (s : State) : (pushDiag e s).lowCnt = s.lowCnt := rfl
@[simp] theorem pushDiag_startTick (e : RingEntry) (s : State) : (pushDiag e s).startTick = s.startTick := rfl
@[simp] theorem pushDiag_dataByte (e : RingEntry) (s : State) : (pushDiag e s).dataByte = s.dataByte := rfl
@[simp] theorem pushDiag_bitIndex (e : RingEntry) (s : State) : (pushDiag e s).bitIndex = s.bitIndex := rfl
@[simp] theorem pushDiag_bitMask (e : RingEntry) (s : State) : (pushDiag e s).bitMask = s.bitMask := rfl
@[simp] theorem pushDiag_lastByteTick (e : RingEntry) (s : State) : (pushDiag e s).lastByteTick =
    s.lastByteTick := rfl
@[simp] theorem pushDiag_linkCountdown (e : RingEntry) (s : State) : (pushDiag e s).linkCountdown =
    s.linkCountdown := rfl
@[simp] theorem pushDiag_byteCounter (e : RingEntry) (s : State) : (pushDiag e s).byteCounter =
    s.byteCounter := rfl
@[simp] theorem pushDiag_indicator (e : RingEntry) (s : State) : (pushDiag e s).indicator = s.indicator := rfl
@[simp] theorem pushDiag_tail (e : RingEntry) (s : State) : (pushDiag e s).tail =
    incmod s.tail s.cfg.ringN := rfl
@[simp] theorem pushDiag_mem (e : RingEntry) (s : State) : (pushDiag e s).mem =
    (push e.value e.payload s).mem := rfl
@[simp] theorem pushDiag_events (e : RingEntry) (s : State) : (pushDiag e s).events =
    (push e.value e.payload s).events := rfl
@[simp] theorem pushDiag_now (e : RingEntry) (s : State) : (pushDiag e s).now = s.now := rfl
@[simp] theorem pushDiag_cur (e : RingEntry) (s : State) : (pushDiag e s).cur = s.cur := rfl
@[simp] theorem pushDiag_shut (e : RingEntry) (s : State) : (pushDiag e s).shut = s.shut := rfl
@[simp] theorem pushDiag_inputs (e : RingEntry) (s : State) : (pushDiag e s).inputs = s.inputs := rfl
@[simp] theorem pushDiag_inputIdx (e : RingEntry) (s : State) : (pushDiag e s).inputIdx = s.inputIdx := rfl

/-! ### sampleDataBit: the sampling of a data bit -/

@[simp] theorem sampleDataBit_cfg (c : Bool) (s : State) : (sampleDataBit c s).cfg = s.cfg := rfl
@[simp] theorem sampleDataBit_phase (c : Bool) (s : State) : (sampleDataBit c s).phase = s.phase := rfl
@[simp] theorem sampleDataBit_bseq (c : Bool) (s : State) : (sampleDataBit c s).bseq = s.bseq := rfl
@[simp] theorem sampleDataBit_st (c : Bool) (s : State) : (sampleDataBit c s).st = s.st := rfl
@[simp] theorem sampleDataBit_prev (c : Bool) (s : State) : (sampleDataBit c s).prev = s.prev := rfl
@[simp] theorem sampleDataBit_idleCnt (c : Bool) (s : State) : (sampleDataBit c s).idleCnt = s.idleCnt := rfl
@[simp] theorem sampleDataBit_lowCnt (c : Bool) (s : State) : (sampleDataBit c s).lowCnt = s.lowCnt := rfl
@[simp] theorem sampleDataBit_startTick (c : Bool) (s : State) : (sampleDataBit c s).startTick =
    s.startTick := rfl
@[simp] theorem sampleDataBit_dataByte (c : Bool) (s : State) : (sampleDataBit c s).dataByte =
    if c then s.dataByte ||| s.bitMask.setWidth 8 else s.dataByte := rfl
@[simp] theorem sampleDataBit_bitIndex (c : Bool) (s : State) : (sampleDataBit c s).bitIndex =
    s.bitIndex + 1 := rfl
@[simp] theorem sampleDataBit_bitMask (c : Bool) (s : State) : (sampleDataBit c s).bitMask =
    shl1 s.bitMask := rfl
@[simp] theorem sampleDataBit_lastByteTick (c : Bool) (s : State) : (sampleDataBit c s).lastByteTick =
    s.lastByteTick := rfl
@[simp] theorem sampleDataBit_linkCountdown (c : Bool) (s : State) : (sampleDataBit c s).linkCountdown =
    s.linkCountdown := rfl
@[simp] theorem sampleDataBit_byteCounter (c : Bool) (s : State) : (sampleDataBit c s).byteCounter =
    s.byteCounter := rfl
@[simp] theorem sampleDataBit_indicator (c : Bool) (s : State) : (sampleDataBit c s).indicator =
    s.indicator := rfl
@[simp] theorem sampleDataBit_tail (c : Bool) (s : State) : (sampleDataBit c s).tail = s.tail := rfl
@[simp] theorem sampleDataBit_mem (c : Bool) (s : State) : (sampleDataBit c s).mem = s.mem := rfl
@[simp] theorem sampleDataBit_events (c : Bool) (s : State) : (sampleDataBit c s).events = s.events := rfl
@[simp] theorem sampleDataBit_now (c : Bool) (s : State) : (sampleDataBit c s).now = s.now := rfl
@[simp] theorem sampleDataBit_cur (c : Bool) (s : State) : (sampleDataBit c s).cur = s.cur := rfl
@[simp] theorem sampleDataBit_shut (c : Bool) (s : State) : (sampleDataBit c s).shut = s.shut := rfl
@[simp] theorem sampleDataBit_inputs (c : Bool) (s : State) : (sampleDataBit c s).inputs = s.inputs := rfl
@[simp] theorem sampleDataBit_inputIdx (c : Bool) (s : State) : (sampleDataBit c s).inputIdx = s.inputIdx := rfl

/-! ### countValidByte: the counting of a valid byte -/


@[simp] theorem countValidByte_cfg (s : State) : (countValidByte s).cfg = s.cfg := by
  unfold countValidByte; split <;> rfl
@[simp] theorem countValidByte_phase (s : State) : (countValidByte s).phase = s.phase := by
  unfold countValidByte; split <;> rfl
@[simp] theorem countValidByte_bseq (s : State) : (countValidByte s).bseq = s.bseq := by
  unfold countValidByte; split <;> rfl
@[simp] theorem countValidByte_st (s : State) : (countValidByte s).st = s.st := by
  unfold countValidByte; split <;> rfl
@[simp] theorem countValidByte_prev (s : State) : (countValidByte s).prev = s.prev := by
  unfold countValidByte; split <;> rfl
@[simp] theorem countValidByte_idleCnt (s : State) : (countValidByte s).idleCnt = s.idleCnt := by
  unfold countValidByte; split <;> rfl
@[simp] theorem countValidByte_lowCnt (s : State) : (countValidByte s).lowCnt = s.lowCnt := by
  unfold countValidByte; split <;> rfl
@[simp] theorem countValidByte_startTick (s : State) : (countValidByte s).startTick = s.startTick := by
  unfold countValidByte; split <;> rfl
@[simp] theorem countValidByte_dataByte (s : State) : (countValidByte s).dataByte = s.dataByte := by
  unfold countValidByte; split <;> rfl
@[simp] theorem countValidByte_bitIndex (s : State) : (countValidByte s).bitIndex = s.bitIndex := by
  unfold countValidByte; split <;> rfl
@[simp] theorem countValidByte_bitMask (s : State) : (countValidByte s).bitMask = s.bitMask := by
  unfold countValidByte; split <;> rfl
@[simp] theorem countValidByte_lastByteTick (s : State) : (countValidByte s).lastByteTick = s.lastByteTick := by
  unfold countValidByte; split <;> rfl
@[simp] theorem countValidByte_linkCountdown (s : State) : (countValidByte s).linkCountdown = s.linkCountdown := by
  unfold countValidByte; split <;> rfl
@[simp] theorem countValidByte_byteCounter (s : State) : (countValidByte s).byteCounter = if s.byteCounter.toNat + 1 = s.cfg.indicatorPeriod then 0 else s.byteCounter + 1 := by
  unfold countValidByte; split <;> rfl
@[simp] theorem countValidByte_indicator (s : State) : (countValidByte s).indicator = if s.byteCounter.toNat + 1 = s.cfg.indicatorPeriod then !s.indicator else s.indicator := by
  unfold countValidByte; split <;> rfl
@[simp] theorem countValidByte_tail (s : State) : (countValidByte s).tail = s.tail := by
  unfold countValidByte; split <;> rfl
@[simp] theorem countValidByte_mem (s : State) : (countValidByte s).mem = s.mem := by
  unfold countValidByte; split <;> rfl
@[simp] theorem countValidByte_events (s : State) : (countValidByte s).events = s.events := by
  unfold countValidByte; split <;> rfl
@[simp] theorem countValidByte_now (s : State) : (countValidByte s).now = s.now := by
  unfold countValidByte; split <;> rfl
@[simp] theorem countValidByte_cur (s : State) : (countValidByte s).cur = s.cur := by
  unfold countValidByte; split <;> rfl
@[simp] theorem countValidByte_shut (s : State) : (countValidByte s).shut = s.shut := by
  unfold countValidByte; split <;> rfl
@[simp] theorem countValidByte_inputs (s : State) : (countValidByte s).inputs = s.inputs := by
  unfold countValidByte; split <;> rfl
@[simp] theorem countValidByte_inputIdx (s : State) : (countValidByte s).inputIdx = s.inputIdx := by
  unfold countValidByte; split <;> rfl

/-! ### returnToIdle: the catch-all reset branch -/

@[simp] theorem returnToIdle_cfg (s : State) : (returnToIdle s).cfg = s.cfg := rfl
@[simp] theorem returnToIdle_phase (s : State) : (returnToIdle s).phase = s.phase := rfl
@[simp] theorem returnToIdle_bseq (s : State) : (returnToIdle s).bseq = s.bseq := rfl
@[simp] theorem returnToIdle_st (s : State) : (returnToIdle s).st = .idle := rfl
@[simp] theorem returnToIdle_prev (s : State) : (returnToIdle s).prev = s.prev := rfl
@[simp] theorem returnToIdle_idleCnt (s : State) : (returnToIdle s).idleCnt = 0 := rfl
@[simp] theorem returnToIdle_lowCnt (s : State) : (returnToIdle s).lowCnt = 0 := rfl
@[simp] theorem returnToIdle_startTick (s : State) : (returnToIdle s).startTick = s.startTick := rfl
@[simp] theorem returnToIdle_dataByte (s : State) : (returnToIdle s).dataByte = s.dataByte := rfl
@[simp] theorem returnToIdle_bitIndex (s : State) : (returnToIdle s).bitIndex = s.bitIndex := rfl
@[simp] theorem returnToIdle_bitMask (s : State) : (returnToIdle s).bitMask = s.bitMask := rfl
@[simp] theorem returnToIdle_lastByteTick (s : State) : (returnToIdle s).lastByteTick = s.lastByteTick := rfl
@[simp] theorem returnToIdle_linkCountdown (s : State) : (returnToIdle s).linkCountdown = s.linkCountdown := rfl
@[simp] theorem returnToIdle_byteCounter (s : State) : (returnToIdle s).byteCounter = s.byteCounter := rfl
@[simp] theorem returnToIdle_indicator (s : State) : (returnToIdle s).indicator = s.indicator := rfl
@[simp] theorem returnToIdle_tail (s : State) : (returnToIdle s).tail = s.tail := rfl
@[simp] theorem returnToIdle_mem (s : State) : (returnToIdle s).mem = s.mem := rfl
@[simp] theorem returnToIdle_events (s : State) : (returnToIdle s).events = s.events := rfl
@[simp] theorem returnToIdle_now (s : State) : (returnToIdle s).now = s.now := rfl
@[simp] theorem returnToIdle_cur (s : State) : (returnToIdle s).cur = s.cur := rfl
@[simp] theorem returnToIdle_shut (s : State) : (returnToIdle s).shut = s.shut := rfl
@[simp] theorem returnToIdle_inputs (s : State) : (returnToIdle s).inputs = s.inputs := rfl
@[simp] theorem returnToIdle_inputIdx (s : State) : (returnToIdle s).inputIdx = s.inputIdx := rfl

/-! ### advanceBoot: the start-up index -/

@[simp] theorem advanceBoot_cfg (s : State) : (advanceBoot s).cfg = s.cfg := rfl
@[simp] theorem advanceBoot_phase (s : State) : (advanceBoot s).phase = s.phase := rfl
@[simp] theorem advanceBoot_bseq (s : State) : (advanceBoot s).bseq = s.bseq + 1 := rfl
@[simp] theorem advanceBoot_st (s : State) : (advanceBoot s).st = s.st := rfl
@[simp] theorem advanceBoot_prev (s : State) : (advanceBoot s).prev = s.prev := rfl
@[simp] theorem advanceBoot_idleCnt (s : State) : (advanceBoot s).idleCnt = s.idleCnt := rfl
@[simp] theorem advanceBoot_lowCnt (s : State) : (advanceBoot s).lowCnt = s.lowCnt := rfl
@[simp] theorem advanceBoot_startTick (s : State) : (advanceBoot s).startTick = s.startTick := rfl
@[simp] theorem advanceBoot_dataByte (s : State) : (advanceBoot s).dataByte = s.dataByte := rfl
@[simp] theorem advanceBoot_bitIndex (s : State) : (advanceBoot s).bitIndex = s.bitIndex := rfl
@[simp] theorem advanceBoot_bitMask (s : State) : (advanceBoot s).bitMask = s.bitMask := rfl
@[simp] theorem advanceBoot_lastByteTick (s : State) : (advanceBoot s).lastByteTick = s.lastByteTick := rfl
@[simp] theorem advanceBoot_linkCountdown (s : State) : (advanceBoot s).linkCountdown = s.linkCountdown := rfl
@[simp] theorem advanceBoot_byteCounter (s : State) : (advanceBoot s).byteCounter = s.byteCounter := rfl
@[simp] theorem advanceBoot_indicator (s : State) : (advanceBoot s).indicator = s.indicator := rfl
@[simp] theorem advanceBoot_tail (s : State) : (advanceBoot s).tail = s.tail := rfl
@[simp] theorem advanceBoot_mem (s : State) : (advanceBoot s).mem = s.mem := rfl
@[simp] theorem advanceBoot_events (s : State) : (advanceBoot s).events = s.events := rfl
@[simp] theorem advanceBoot_now (s : State) : (advanceBoot s).now = s.now := rfl
@[simp] theorem advanceBoot_cur (s : State) : (advanceBoot s).cur = s.cur := rfl
@[simp] theorem advanceBoot_shut (s : State) : (advanceBoot s).shut = s.shut := rfl
@[simp] theorem advanceBoot_inputs (s : State) : (advanceBoot s).inputs = s.inputs := rfl
@[simp] theorem advanceBoot_inputIdx (s : State) : (advanceBoot s).inputIdx = s.inputIdx := rfl

/-! ### refuseConfig: the refusal of a configuration -/

@[simp] theorem refuseConfig_cfg (s : State) : (refuseConfig s).cfg = s.cfg := rfl
@[simp] theorem refuseConfig_phase (s : State) : (refuseConfig s).phase = .cfgFault := rfl
@[simp] theorem refuseConfig_bseq (s : State) : (refuseConfig s).bseq = s.bseq := rfl
@[simp] theorem refuseConfig_st (s : State) : (refuseConfig s).st = s.st := rfl
@[simp] theorem refuseConfig_prev (s : State) : (refuseConfig s).prev = s.prev := rfl
@[simp] theorem refuseConfig_idleCnt (s : State) : (refuseConfig s).idleCnt = s.idleCnt := rfl
@[simp] theorem refuseConfig_lowCnt (s : State) : (refuseConfig s).lowCnt = s.lowCnt := rfl
@[simp] theorem refuseConfig_startTick (s : State) : (refuseConfig s).startTick = s.startTick := rfl
@[simp] theorem refuseConfig_dataByte (s : State) : (refuseConfig s).dataByte = s.dataByte := rfl
@[simp] theorem refuseConfig_bitIndex (s : State) : (refuseConfig s).bitIndex = s.bitIndex := rfl
@[simp] theorem refuseConfig_bitMask (s : State) : (refuseConfig s).bitMask = s.bitMask := rfl
@[simp] theorem refuseConfig_lastByteTick (s : State) : (refuseConfig s).lastByteTick = s.lastByteTick := rfl
@[simp] theorem refuseConfig_linkCountdown (s : State) : (refuseConfig s).linkCountdown = s.linkCountdown := rfl
@[simp] theorem refuseConfig_byteCounter (s : State) : (refuseConfig s).byteCounter = s.byteCounter := rfl
@[simp] theorem refuseConfig_indicator (s : State) : (refuseConfig s).indicator = s.indicator := rfl
@[simp] theorem refuseConfig_tail (s : State) : (refuseConfig s).tail = s.tail := rfl
@[simp] theorem refuseConfig_mem (s : State) : (refuseConfig s).mem = s.mem := rfl
@[simp] theorem refuseConfig_events (s : State) : (refuseConfig s).events = s.events := rfl
@[simp] theorem refuseConfig_now (s : State) : (refuseConfig s).now = s.now := rfl
@[simp] theorem refuseConfig_cur (s : State) : (refuseConfig s).cur = s.cur := rfl
@[simp] theorem refuseConfig_shut (s : State) : (refuseConfig s).shut = s.shut := rfl
@[simp] theorem refuseConfig_inputs (s : State) : (refuseConfig s).inputs = s.inputs := rfl
@[simp] theorem refuseConfig_inputIdx (s : State) : (refuseConfig s).inputIdx = s.inputIdx := rfl

/-! ### emitComplete: the halt -/

@[simp] theorem emitComplete_cfg (s : State) : (emitComplete s).cfg = s.cfg := rfl
@[simp] theorem emitComplete_phase (s : State) : (emitComplete s).phase = .halted := rfl
@[simp] theorem emitComplete_bseq (s : State) : (emitComplete s).bseq = s.bseq := rfl
@[simp] theorem emitComplete_st (s : State) : (emitComplete s).st = s.st := rfl
@[simp] theorem emitComplete_prev (s : State) : (emitComplete s).prev = s.prev := rfl
@[simp] theorem emitComplete_idleCnt (s : State) : (emitComplete s).idleCnt = s.idleCnt := rfl
@[simp] theorem emitComplete_lowCnt (s : State) : (emitComplete s).lowCnt = s.lowCnt := rfl
@[simp] theorem emitComplete_startTick (s : State) : (emitComplete s).startTick = s.startTick := rfl
@[simp] theorem emitComplete_dataByte (s : State) : (emitComplete s).dataByte = s.dataByte := rfl
@[simp] theorem emitComplete_bitIndex (s : State) : (emitComplete s).bitIndex = s.bitIndex := rfl
@[simp] theorem emitComplete_bitMask (s : State) : (emitComplete s).bitMask = s.bitMask := rfl
@[simp] theorem emitComplete_lastByteTick (s : State) : (emitComplete s).lastByteTick = s.lastByteTick := rfl
@[simp] theorem emitComplete_linkCountdown (s : State) : (emitComplete s).linkCountdown = s.linkCountdown := rfl
@[simp] theorem emitComplete_byteCounter (s : State) : (emitComplete s).byteCounter = s.byteCounter := rfl
@[simp] theorem emitComplete_indicator (s : State) : (emitComplete s).indicator = s.indicator := rfl
@[simp] theorem emitComplete_tail (s : State) : (emitComplete s).tail = s.tail := rfl
@[simp] theorem emitComplete_mem (s : State) : (emitComplete s).mem = s.mem := rfl
@[simp] theorem emitComplete_events (s : State) : (emitComplete s).events = s.events ++ [.complete] := rfl
@[simp] theorem emitComplete_now (s : State) : (emitComplete s).now = s.now := rfl
@[simp] theorem emitComplete_cur (s : State) : (emitComplete s).cur = s.cur := rfl
@[simp] theorem emitComplete_shut (s : State) : (emitComplete s).shut = s.shut := rfl
@[simp] theorem emitComplete_inputs (s : State) : (emitComplete s).inputs = s.inputs := rfl
@[simp] theorem emitComplete_inputIdx (s : State) : (emitComplete s).inputIdx = s.inputIdx := rfl

/-! ### takeInput: the taking of an input -/

@[simp] theorem takeInput_cfg (s : State) : (takeInput s).cfg = s.cfg := rfl
@[simp] theorem takeInput_phase (s : State) : (takeInput s).phase = s.phase := rfl
@[simp] theorem takeInput_bseq (s : State) : (takeInput s).bseq = s.bseq := rfl
@[simp] theorem takeInput_st (s : State) : (takeInput s).st = s.st := rfl
@[simp] theorem takeInput_prev (s : State) : (takeInput s).prev = s.prev := rfl
@[simp] theorem takeInput_idleCnt (s : State) : (takeInput s).idleCnt = s.idleCnt := rfl
@[simp] theorem takeInput_lowCnt (s : State) : (takeInput s).lowCnt = s.lowCnt := rfl
@[simp] theorem takeInput_startTick (s : State) : (takeInput s).startTick = s.startTick := rfl
@[simp] theorem takeInput_dataByte (s : State) : (takeInput s).dataByte = s.dataByte := rfl
@[simp] theorem takeInput_bitIndex (s : State) : (takeInput s).bitIndex = s.bitIndex := rfl
@[simp] theorem takeInput_bitMask (s : State) : (takeInput s).bitMask = s.bitMask := rfl
@[simp] theorem takeInput_lastByteTick (s : State) : (takeInput s).lastByteTick = s.lastByteTick := rfl
@[simp] theorem takeInput_linkCountdown (s : State) : (takeInput s).linkCountdown = s.linkCountdown := rfl
@[simp] theorem takeInput_byteCounter (s : State) : (takeInput s).byteCounter = s.byteCounter := rfl
@[simp] theorem takeInput_indicator (s : State) : (takeInput s).indicator = s.indicator := rfl
@[simp] theorem takeInput_tail (s : State) : (takeInput s).tail = s.tail := rfl
@[simp] theorem takeInput_mem (s : State) : (takeInput s).mem = s.mem := rfl
@[simp] theorem takeInput_events (s : State) : (takeInput s).events = s.events := rfl
@[simp] theorem takeInput_now (s : State) : (takeInput s).now = s.now := rfl
@[simp] theorem takeInput_cur (s : State) : (takeInput s).cur = s.cur := rfl
@[simp] theorem takeInput_shut (s : State) : (takeInput s).shut = s.shut := rfl
@[simp] theorem takeInput_inputs (s : State) : (takeInput s).inputs = s.inputs.tail := rfl
@[simp] theorem takeInput_inputIdx (s : State) : (takeInput s).inputIdx = s.inputIdx + 1 := rfl

/-! ### agentsWrite: other agents' writes -/

@[simp] theorem agentsWrite_cfg (ws : List AgentWrite) (s : State) : (agentsWrite ws s).cfg = s.cfg := rfl
@[simp] theorem agentsWrite_phase (ws : List AgentWrite) (s : State) : (agentsWrite ws s).phase = s.phase := rfl
@[simp] theorem agentsWrite_bseq (ws : List AgentWrite) (s : State) : (agentsWrite ws s).bseq = s.bseq := rfl
@[simp] theorem agentsWrite_st (ws : List AgentWrite) (s : State) : (agentsWrite ws s).st = s.st := rfl
@[simp] theorem agentsWrite_prev (ws : List AgentWrite) (s : State) : (agentsWrite ws s).prev = s.prev := rfl
@[simp] theorem agentsWrite_idleCnt (ws : List AgentWrite) (s : State) : (agentsWrite ws s).idleCnt =
    s.idleCnt := rfl
@[simp] theorem agentsWrite_lowCnt (ws : List AgentWrite) (s : State) : (agentsWrite ws s).lowCnt =
    s.lowCnt := rfl
@[simp] theorem agentsWrite_startTick (ws : List AgentWrite) (s : State) : (agentsWrite ws s).startTick =
    s.startTick := rfl
@[simp] theorem agentsWrite_dataByte (ws : List AgentWrite) (s : State) : (agentsWrite ws s).dataByte =
    s.dataByte := rfl
@[simp] theorem agentsWrite_bitIndex (ws : List AgentWrite) (s : State) : (agentsWrite ws s).bitIndex =
    s.bitIndex := rfl
@[simp] theorem agentsWrite_bitMask (ws : List AgentWrite) (s : State) : (agentsWrite ws s).bitMask =
    s.bitMask := rfl
@[simp] theorem agentsWrite_lastByteTick (ws : List AgentWrite) (s : State) : (agentsWrite ws s).lastByteTick =
    s.lastByteTick := rfl
@[simp] theorem agentsWrite_linkCountdown (ws : List AgentWrite) (s : State) : (agentsWrite ws s).linkCountdown =
    s.linkCountdown := rfl
@[simp] theorem agentsWrite_byteCounter (ws : List AgentWrite) (s : State) : (agentsWrite ws s).byteCounter =
    s.byteCounter := rfl
@[simp] theorem agentsWrite_indicator (ws : List AgentWrite) (s : State) : (agentsWrite ws s).indicator =
    s.indicator := rfl
@[simp] theorem agentsWrite_tail (ws : List AgentWrite) (s : State) : (agentsWrite ws s).tail = s.tail := rfl
@[simp] theorem agentsWrite_mem (ws : List AgentWrite) (s : State) : (agentsWrite ws s).mem =
    ws.foldl (fun m w => Memory.write16 m w.addr w.data) s.mem := rfl
@[simp] theorem agentsWrite_events (ws : List AgentWrite) (s : State) : (agentsWrite ws s).events =
    s.events := rfl
@[simp] theorem agentsWrite_now (ws : List AgentWrite) (s : State) : (agentsWrite ws s).now = s.now := rfl
@[simp] theorem agentsWrite_cur (ws : List AgentWrite) (s : State) : (agentsWrite ws s).cur = s.cur := rfl
@[simp] theorem agentsWrite_shut (ws : List AgentWrite) (s : State) : (agentsWrite ws s).shut = s.shut := rfl
@[simp] theorem agentsWrite_inputs (ws : List AgentWrite) (s : State) : (agentsWrite ws s).inputs =
    s.inputs := rfl
@[simp] theorem agentsWrite_inputIdx (ws : List AgentWrite) (s : State) : (agentsWrite ws s).inputIdx =
    s.inputIdx := rfl

/-! ### latchPorts: the reads of an iteration -/

@[simp] theorem latchPorts_cfg (i : Input) (s : State) : (latchPorts i s).cfg = s.cfg := rfl
@[simp] theorem latchPorts_phase (i : Input) (s : State) : (latchPorts i s).phase = s.phase := rfl
@[simp] theorem latchPorts_bseq (i : Input) (s : State) : (latchPorts i s).bseq = s.bseq := rfl
@[simp] theorem latchPorts_st (i : Input) (s : State) : (latchPorts i s).st = s.st := rfl
@[simp] theorem latchPorts_prev (i : Input) (s : State) : (latchPorts i s).prev = s.prev := rfl
@[simp] theorem latchPorts_idleCnt (i : Input) (s : State) : (latchPorts i s).idleCnt = s.idleCnt := rfl
@[simp] theorem latchPorts_lowCnt (i : Input) (s : State) : (latchPorts i s).lowCnt = s.lowCnt := rfl
@[simp] theorem latchPorts_startTick (i : Input) (s : State) : (latchPorts i s).startTick = s.startTick := rfl
@[simp] theorem latchPorts_dataByte (i : Input) (s : State) : (latchPorts i s).dataByte = s.dataByte := rfl
@[simp] theorem latchPorts_bitIndex (i : Input) (s : State) : (latchPorts i s).bitIndex = s.bitIndex := rfl
@[simp] theorem latchPorts_bitMask (i : Input) (s : State) : (latchPorts i s).bitMask = s.bitMask := rfl
@[simp] theorem latchPorts_lastByteTick (i : Input) (s : State) : (latchPorts i s).lastByteTick =
    s.lastByteTick := rfl
@[simp] theorem latchPorts_linkCountdown (i : Input) (s : State) : (latchPorts i s).linkCountdown =
    s.linkCountdown := rfl
@[simp] theorem latchPorts_byteCounter (i : Input) (s : State) : (latchPorts i s).byteCounter =
    s.byteCounter := rfl
@[simp] theorem latchPorts_indicator (i : Input) (s : State) : (latchPorts i s).indicator = s.indicator := rfl
@[simp] theorem latchPorts_tail (i : Input) (s : State) : (latchPorts i s).tail = s.tail := rfl
@[simp] theorem latchPorts_mem (i : Input) (s : State) : (latchPorts i s).mem = s.mem := rfl
@[simp] theorem latchPorts_events (i : Input) (s : State) : (latchPorts i s).events = s.events := rfl
@[simp] theorem latchPorts_now (i : Input) (s : State) : (latchPorts i s).now = i.tick := rfl
@[simp] theorem latchPorts_cur (i : Input) (s : State) : (latchPorts i s).cur = i.line := rfl
@[simp] theorem latchPorts_shut (i : Input) (s : State) : (latchPorts i s).shut = i.shutdown := rfl
@[simp] theorem latchPorts_inputs (i : Input) (s : State) : (latchPorts i s).inputs = s.inputs := rfl
@[simp] theorem latchPorts_inputIdx (i : Input) (s : State) : (latchPorts i s).inputIdx = s.inputIdx := rfl

/-! ### commitPrev: `prev <- cur` -/

@[simp] theorem commitPrev_cfg (s : State) : (commitPrev s).cfg = s.cfg := rfl
@[simp] theorem commitPrev_phase (s : State) : (commitPrev s).phase = s.phase := rfl
@[simp] theorem commitPrev_bseq (s : State) : (commitPrev s).bseq = s.bseq := rfl
@[simp] theorem commitPrev_st (s : State) : (commitPrev s).st = s.st := rfl
@[simp] theorem commitPrev_prev (s : State) : (commitPrev s).prev = s.cur := rfl
@[simp] theorem commitPrev_idleCnt (s : State) : (commitPrev s).idleCnt = s.idleCnt := rfl
@[simp] theorem commitPrev_lowCnt (s : State) : (commitPrev s).lowCnt = s.lowCnt := rfl
@[simp] theorem commitPrev_startTick (s : State) : (commitPrev s).startTick = s.startTick := rfl
@[simp] theorem commitPrev_dataByte (s : State) : (commitPrev s).dataByte = s.dataByte := rfl
@[simp] theorem commitPrev_bitIndex (s : State) : (commitPrev s).bitIndex = s.bitIndex := rfl
@[simp] theorem commitPrev_bitMask (s : State) : (commitPrev s).bitMask = s.bitMask := rfl
@[simp] theorem commitPrev_lastByteTick (s : State) : (commitPrev s).lastByteTick = s.lastByteTick := rfl
@[simp] theorem commitPrev_linkCountdown (s : State) : (commitPrev s).linkCountdown = s.linkCountdown := rfl
@[simp] theorem commitPrev_byteCounter (s : State) : (commitPrev s).byteCounter = s.byteCounter := rfl
@[simp] theorem commitPrev_indicator (s : State) : (commitPrev s).indicator = s.indicator := rfl
@[simp] theorem commitPrev_tail (s : State) : (commitPrev s).tail = s.tail := rfl
@[simp] theorem commitPrev_mem (s : State) : (commitPrev s).mem = s.mem := rfl
@[simp] theorem commitPrev_events (s : State) : (commitPrev s).events = s.events := rfl
@[simp] theorem commitPrev_now (s : State) : (commitPrev s).now = s.now := rfl
@[simp] theorem commitPrev_cur (s : State) : (commitPrev s).cur = s.cur := rfl
@[simp] theorem commitPrev_shut (s : State) : (commitPrev s).shut = s.shut := rfl
@[simp] theorem commitPrev_inputs (s : State) : (commitPrev s).inputs = s.inputs := rfl
@[simp] theorem commitPrev_inputIdx (s : State) : (commitPrev s).inputIdx = s.inputIdx := rfl

/-! ### resetInput: the reset input -/

@[simp] theorem resetInput_cfg (s : State) : (resetInput s).cfg = s.cfg := rfl
@[simp] theorem resetInput_phase (s : State) : (resetInput s).phase = (State.resetWith s.cfg).phase := rfl
@[simp] theorem resetInput_bseq (s : State) : (resetInput s).bseq = (State.resetWith s.cfg).bseq := rfl
@[simp] theorem resetInput_st (s : State) : (resetInput s).st = (State.resetWith s.cfg).st := rfl
@[simp] theorem resetInput_prev (s : State) : (resetInput s).prev = (State.resetWith s.cfg).prev := rfl
@[simp] theorem resetInput_idleCnt (s : State) : (resetInput s).idleCnt = (State.resetWith s.cfg).idleCnt := rfl
@[simp] theorem resetInput_lowCnt (s : State) : (resetInput s).lowCnt = (State.resetWith s.cfg).lowCnt := rfl
@[simp] theorem resetInput_startTick (s : State) : (resetInput s).startTick = (State.resetWith s.cfg).startTick := rfl
@[simp] theorem resetInput_dataByte (s : State) : (resetInput s).dataByte = (State.resetWith s.cfg).dataByte := rfl
@[simp] theorem resetInput_bitIndex (s : State) : (resetInput s).bitIndex = (State.resetWith s.cfg).bitIndex := rfl
@[simp] theorem resetInput_bitMask (s : State) : (resetInput s).bitMask = (State.resetWith s.cfg).bitMask := rfl
@[simp] theorem resetInput_lastByteTick (s : State) : (resetInput s).lastByteTick = (State.resetWith s.cfg).lastByteTick := rfl
@[simp] theorem resetInput_linkCountdown (s : State) : (resetInput s).linkCountdown = (State.resetWith s.cfg).linkCountdown := rfl
@[simp] theorem resetInput_byteCounter (s : State) : (resetInput s).byteCounter = (State.resetWith s.cfg).byteCounter := rfl
@[simp] theorem resetInput_indicator (s : State) : (resetInput s).indicator = (State.resetWith s.cfg).indicator := rfl
@[simp] theorem resetInput_tail (s : State) : (resetInput s).tail = (State.resetWith s.cfg).tail := rfl
@[simp] theorem resetInput_mem (s : State) : (resetInput s).mem = (State.resetWith s.cfg).mem := rfl
@[simp] theorem resetInput_events (s : State) : (resetInput s).events = (State.resetWith s.cfg).events := rfl
@[simp] theorem resetInput_now (s : State) : (resetInput s).now = (State.resetWith s.cfg).now := rfl
@[simp] theorem resetInput_cur (s : State) : (resetInput s).cur = (State.resetWith s.cfg).cur := rfl
@[simp] theorem resetInput_shut (s : State) : (resetInput s).shut = (State.resetWith s.cfg).shut := rfl
@[simp] theorem resetInput_inputs (s : State) : (resetInput s).inputs = s.inputs := rfl
@[simp] theorem resetInput_inputIdx (s : State) : (resetInput s).inputIdx = s.inputIdx := rfl

end Sys2Proof.Machine
end

