-- ==== Sys2Proof/Laws/Ops.lean ====
section
/-! SUPPORT. One lemma per shared operation that says what it does: where the addresses of the ring lie, what `PUSH` leaves
in memory and what it leaves alone, the index step, the saturating decrement. -/

namespace Sys2Proof.Machine

open Sys2Proof

theorem incmod_toNat {n : Nat} (v : Half) (h1 : 1 ≤ n) (h2 : n ≤ 65536) : (incmod v n).toNat = (v.toNat + 1) % n := by
  have hlt := Nat.mod_lt (v.toNat + 1) h1
  simp only [incmod, show n ≠ 0 by omega, if_false, BitVec.toNat_ofNat]
  exact Nat.mod_eq_of_lt (by omega)

theorem incmod_lt {n : Nat} (v : Half) (h1 : 1 ≤ n) (h2 : n ≤ 65536) : (incmod v n).toNat < n := by
  rw [incmod_toNat v h1 h2]
  exact Nat.mod_lt _ h1

theorem satdec_toNat (v : BitVec 32) : (satdec v).toNat = v.toNat - 1 := by
  unfold satdec
  split
  · simp_all
  · bv_omega

theorem toAddr_toNat {a : Nat} (h : a < 2 ^ 32) : (toAddr a).toNat = a := by
  simp only [toAddr, BitVec.toNat_ofNat]
  exact Nat.mod_eq_of_lt h

theorem nextAddr_toNat {a : Addr} (h : a.toNat + 1 < 2 ^ 32) : (nextAddr a).toNat = a.toNat + 1 := by
  unfold nextAddr
  bv_omega

/-- The addresses of a legal ring, as numbers: no address computation wraps (spec/20_memory.md R42). -/
theorem ring_addresses {c : Config} (h : c.isLegal = true) :
    (headAddr c).toNat = c.ringBase ∧ (nextAddr (headAddr c)).toNat = c.ringBase + 1 ∧
    (tailAddr c).toNat = c.ringBase + 2 ∧ (nextAddr (tailAddr c)).toNat = c.ringBase + 3 := by
  obtain ⟨-, hr⟩ := legal_region h
  obtain ⟨hn, -⟩ := legal_ringN h
  have h1 : (headAddr c).toNat = c.ringBase := toAddr_toNat (by omega)
  have h2 : (tailAddr c).toNat = c.ringBase + 2 := toAddr_toNat (by omega)
  exact ⟨h1, by rw [nextAddr_toNat (by omega), h1], h2, by rw [nextAddr_toNat (by omega), h2]⟩

/-- The addresses of slot `k` of a legal ring, as numbers (spec/20_memory.md R42). -/
theorem slot_addresses {c : Config} (h : c.isLegal = true) {k : Half} (hk : k.toNat < c.ringN) :
    (valueAddr c k).toNat = c.ringBase + 4 + 4 * k.toNat ∧ (nextAddr (valueAddr c k)).toNat = c.ringBase + 5 + 4 * k.toNat ∧
    (payloadAddr c k).toNat = c.ringBase + 6 + 4 * k.toNat ∧
    (nextAddr (payloadAddr c k)).toNat = c.ringBase + 7 + 4 * k.toNat := by
  obtain ⟨-, hr⟩ := legal_region h
  have h1 : (valueAddr c k).toNat = c.ringBase + 4 + 4 * k.toNat := toAddr_toNat (by omega)
  have h2 : (payloadAddr c k).toNat = c.ringBase + 6 + 4 * k.toNat := toAddr_toNat (by omega)
  exact ⟨h1, by rw [nextAddr_toNat (by omega), h1]; omega, h2, by rw [nextAddr_toNat (by omega), h2]; omega⟩

/-- Two addresses with different numbers differ. -/
theorem addr_ne {a b : Addr} (h : a.toNat ≠ b.toNat) : a ≠ b := fun e => h (congrArg _ e)

/-- `PUSH` leaves alone every byte that is in none of its three words. -/
theorem push_read_ne (v p : Half) (s : State) {x : Nat}
    (h1 : x ≠ (valueAddr s.cfg s.tail).toNat) (h2 : x ≠ (nextAddr (valueAddr s.cfg s.tail)).toNat)
    (h3 : x ≠ (payloadAddr s.cfg s.tail).toNat) (h4 : x ≠ (nextAddr (payloadAddr s.cfg s.tail)).toNat)
    (h5 : x ≠ (tailAddr s.cfg).toNat) (h6 : x ≠ (nextAddr (tailAddr s.cfg)).toNat) :
    Memory.read (push v p s).mem x = Memory.read s.mem x := by
  rw [push_mem, read_write16_ne _ _ h5 h6, read_write16_ne _ _ h3 h4, read_write16_ne _ _ h1 h2]

/-- `PUSH` publishes the new tail in memory, in every state. -/
theorem push_read_tail (v p : Half) (s : State) :
    Memory.read16 (push v p s).mem (tailAddr s.cfg) = some (push v p s).tail := by
  rw [push_mem, push_tail, read16_write16_same]

/-- `PUSH` into a slot of a legal ring stores both halves of the entry. -/
theorem push_read_entry (v p : Half) (s : State) (h : s.cfg.isLegal = true) (ht : s.tail.toNat < s.cfg.ringN) :
    Memory.read16 (push v p s).mem (valueAddr s.cfg s.tail) = some v ∧
    Memory.read16 (push v p s).mem (payloadAddr s.cfg s.tail) = some p := by
  obtain ⟨-, -, t1, t2⟩ := ring_addresses h
  obtain ⟨v1, v2, p1, p2⟩ := slot_addresses h ht
  rw [push_mem]
  constructor
  · rw [read16_write16_ne _ _ (addr_ne (by omega)) (addr_ne (by omega)) (addr_ne (by omega)),
      read16_write16_ne _ _ (addr_ne (by omega)) (addr_ne (by omega)) (addr_ne (by omega)), read16_write16_same]
  · rw [read16_write16_ne _ _ (addr_ne (by omega)) (addr_ne (by omega)) (addr_ne (by omega)), read16_write16_same]

/-- `PUSH` keeps the canonical form of memory. -/
theorem push_wf (v p : Half) (s : State) (h : Memory.wf s.mem) : Memory.wf (push v p s).mem := by
  rw [push_mem]
  exact write16_wf _ _ _ (write16_wf _ _ _ (write16_wf _ _ _ h))

end Sys2Proof.Machine
end

