-- ==== Sys2Proof/Laws/PerInstr.lean ====
section
/-! SUPPORT. One fact per operation as syntax: its encoding has its own format, and no bit outside the operation's mask and
operand bits (spec/30_encoding.md R63). -/

namespace Sys2Proof

namespace Laws.EncodedForm

/-- An operation's encoding has the operation's format, and no bit outside its mask and its operand bits, which do
not overlap. -/
def Statement (i : Instr) : Prop :=
  (encode i).format = i.format ∧ (encode i).word &&& (i.mask ||| i.operandMask) = (encode i).word ∧
    i.mask &&& i.operandMask = 0

theorem idleClr : Statement .idleClr := ⟨rfl, rfl, rfl⟩
theorem idleCnt : Statement .idleCnt := ⟨rfl, rfl, rfl⟩
theorem idleArm : Statement .idleArm := ⟨rfl, rfl, rfl⟩
theorem awaitAge : Statement .awaitAge := ⟨rfl, rfl, rfl⟩
theorem awaitCnt : Statement .awaitCnt := ⟨rfl, rfl, rfl⟩
theorem awaitEdge : Statement .awaitEdge := ⟨rfl, rfl, rfl⟩
theorem confWait : Statement .confWait := ⟨rfl, rfl, rfl⟩
theorem confOk : Statement .confOk := ⟨rfl, rfl, rfl⟩
theorem confFalse : Statement .confFalse := ⟨rfl, rfl, rfl⟩
theorem dataWait : Statement .dataWait := ⟨rfl, rfl, rfl⟩
theorem dataBit (c : Bool) : Statement (.dataBit c) := by cases c <;> exact ⟨rfl, rfl, rfl⟩
theorem dataLast (c : Bool) : Statement (.dataLast c) := by cases c <;> exact ⟨rfl, rfl, rfl⟩
theorem stopWait : Statement .stopWait := ⟨rfl, rfl, rfl⟩
theorem stopInvalid : Statement .stopInvalid := ⟨rfl, rfl, rfl⟩
theorem stopValid : Statement .stopValid := ⟨rfl, rfl, rfl⟩
theorem rsvdReset5 : Statement .rsvdReset5 := ⟨rfl, rfl, rfl⟩
theorem rsvdReset67 : Statement .rsvdReset67 := ⟨rfl, rfl, rfl⟩
theorem haltCont : Statement .haltCont := ⟨rfl, rfl, rfl⟩
theorem haltStop : Statement .haltStop := ⟨rfl, rfl, rfl⟩
theorem bootCfg : Statement .bootCfg := ⟨rfl, rfl, rfl⟩
theorem bootHead : Statement .bootHead := ⟨rfl, rfl, rfl⟩
theorem bootTail : Statement .bootTail := ⟨rfl, rfl, rfl⟩
theorem bootDiag0 : Statement .bootDiag0 := ⟨rfl, rfl, rfl⟩
theorem bootDiag1 : Statement .bootDiag1 := ⟨rfl, rfl, rfl⟩
theorem bootDiag2 : Statement .bootDiag2 := ⟨rfl, rfl, rfl⟩
theorem bootRun : Statement .bootRun := ⟨rfl, rfl, rfl⟩

end Laws.EncodedForm

end Sys2Proof
end

