-- ==== Sys2Proof/Laws/Step.lean ====
section
/-! SUPPORT. What an iteration and a step do, once: the end of an iteration, and the cases of a step. -/

namespace Sys2Proof.Machine

open Sys2Proof

/-- What the end of an iteration leaves: `prev` refreshed, and the halt if the request was read (spec/41_bit_sampler.md R93,
spec/46_shutdown.md R160). -/
def finished (s : State) : State := if s.shut then emitComplete (commitPrev s) else commitPrev s

theorem finishIteration_eq (s : State) : finishIteration s = .next (finished s) := by
  unfold finishIteration finished execSelected decode
  simp only [commitPrev_shut, decodeHalt_ofBool]
  cases s.shut <;> rfl

/-- A step that answers a next state is one of five things: a reset, a start-up operation, an iteration, or a step in
which the block does nothing. -/
theorem step_cases {s t : State} (h : step s = .next t) :
    ((nextInput s).reset = true ∧ t = resetInput (takeInput s)) ∨
    ((nextInput s).reset = false ∧ s.phase = .boot ∧
      ∃ i, decodeBoot s.bseq = .ok i ∧ exec i (agentsWrite (nextInput s).agentWrites (takeInput s)) = .next t) ∨
    ((nextInput s).reset = false ∧ s.phase = .run ∧
      ∃ i u, decodeStep (sel (iterationStart s)) = .ok i ∧
        exec i (iterationStart s) = .next u ∧ t = finished u) ∨
    ((nextInput s).reset = false ∧ (s.phase = .halted ∨ s.phase = .cfgFault) ∧
      t = agentsWrite (nextInput s).agentWrites (takeInput s)) := by
  unfold step stepUnder at h
  cases hr : (nextInput s).reset with
  | true => exact .inl ⟨rfl, by simpa [hr] using h.symm⟩
  | false =>
    simp only [hr, Bool.false_eq_true, if_false, blockStep, agentsWrite_phase, takeInput_phase] at h
    cases hp : s.phase with
    | boot =>
      simp only [hp, execSelected, decode, agentsWrite_bseq, takeInput_bseq] at h
      cases hd : decodeBoot s.bseq with
      | error e => simp [hd] at h
      | ok i => exact .inr (.inl ⟨rfl, rfl, i, rfl, by simpa [hd] using h⟩)
    | run =>
      simp only [hp, iterate, execSelected, decode] at h
      cases hd : decodeStep (sel (latchPorts (nextInput s) (agentsWrite (nextInput s).agentWrites (takeInput s)))) with
      | error e => simp [hd, andThen] at h
      | ok i =>
        simp only [hd] at h
        cases he : exec i (latchPorts (nextInput s) (agentsWrite (nextInput s).agentWrites (takeInput s))) with
        | next u =>
          simp only [he, andThen, finishIteration_eq, Host.Outcome.next.injEq] at h
          exact .inr (.inr (.inl ⟨rfl, rfl, i, u, hd, he, h.symm⟩))
        | fault e => simp [he, andThen] at h
        | refused e => simp [he, andThen] at h
    | halted =>
      simp only [hp, Host.Outcome.next.injEq] at h
      exact .inr (.inr (.inr ⟨rfl, .inl rfl, h.symm⟩))
    | cfgFault =>
      simp only [hp, Host.Outcome.next.injEq] at h
      exact .inr (.inr (.inr ⟨rfl, .inr rfl, h.symm⟩))

/-- The due predicate compares with the entry the state names (spec/40_timing_scheduler.md R84). -/
theorem dueBit_of_entry {s : State} {k o : Nat} (hk : dueIndex s = some k) (ho : s.cfg.offsets[k]? = some o) :
    dueBit s = decide (o ≤ (s.now - s.startTick).toNat) := by
  unfold dueBit offset?
  rw [hk]
  simp only [ho]
  rfl

/-- Without an entry to compare with, no sample is due. -/
theorem dueBit_of_no_entry {s : State} {k : Nat} (hk : dueIndex s = some k) (ho : s.cfg.offsets[k]? = none) :
    dueBit s = false := by
  unfold dueBit offset?
  rw [hk]
  simp only [ho]

/-- Every iteration selects an operation (spec/30_encoding.md R63). -/
theorem decode_sel_ok (s : State) : ∃ i, decodeStep (sel s) = .ok i := decode_packSel_ok ..

/-- An operation leaves the configuration, the reads of the iteration and the environment's inputs alone. -/
theorem exec_keeps_surroundings {i : Instr} {s t : State} (h : exec i s = .next t) :
    t.cfg = s.cfg ∧ t.now = s.now ∧ t.cur = s.cur ∧ t.shut = s.shut ∧ t.inputs = s.inputs ∧ t.inputIdx = s.inputIdx := by
  cases i
  case bootCfg =>
    simp only [exec, execBootCfg, Host.Outcome.next.injEq] at h
    subst h
    split <;> simp
  all_goals
    simp only [exec, execIdleClr, execIdleCnt, execIdleArm, execAwaitAge, execAwaitCnt, execAwaitEdge, execConfWait,
      execConfOk, execConfFalse, execDataWait, execDataBit, execDataLast, execStopWait, execStopInvalid, execStopValid,
      execRsvdReset5, execRsvdReset67, execHaltCont, execHaltStop, execBootHead, execBootTail, execBootDiag0,
      execBootDiag1, execBootDiag2, execBootRun, Host.Outcome.next.injEq] at h
    subst h
    simp

/-- A step in phase RUN whose selector decodes to `i`, which answers `u`, ends the iteration from `u`. -/
theorem step_of_selected {s u : State} {i : Instr} (hp : s.phase = .run) (hr : (nextInput s).reset = false)
    (hi : decodeStep (sel (iterationStart s)) = .ok i) (hu : exec i (iterationStart s) = .next u) :
    step s = .next (finished u) := by
  unfold iterationStart at hi hu
  simp only [step, stepUnder, hr, Bool.false_eq_true, if_false, blockStep, agentsWrite_phase, takeInput_phase, hp, iterate,
    execSelected, decode, hi, hu, andThen, finishIteration_eq]

end Sys2Proof.Machine
end

