-- ==== Sys2Proof/Tests/Slice0.lean ====
section
/-! SUPPORT. Tests: ill-formed configurations refused, words decoded, single steps against the vectors of
spec/95_test_vectors.md (each named by its id), and for every statement with hypotheses a state that meets them. -/

namespace Sys2Proof.Tests

open Sys2Proof Sys2Proof.Machine

/-! ### Well-formed configurations -/

/-- The reference configuration, which is legal (spec/95_test_vectors.md section 0). -/
abbrev ref : Config := Config.reference

theorem test_reference_accepted : Config.wellFormed ref = true := by decide
theorem test_refuses_baud : { ref with baud := 9600 }.violations = [.unsupportedBaud] := by decide -- Z2
theorem test_refuses_tickHz : Config.wellFormed { ref with tickHz := 0 } = false := by decide
theorem test_refuses_tableLength :
    { ref with offsets := ref.offsets.take 10 }.violations = [.tableLength] := by decide
theorem test_refuses_tableWidth :
    { ref with offsets := ref.offsets.set 10 (2 ^ 32) }.violations = [.tableWidth] := by decide
theorem test_refuses_tableOrder :
    { ref with offsets := ref.offsets.set 4 6076 }.violations = [.tableOrder] := by decide -- Z3
theorem test_refuses_tableSpan :
    { ref with offsets := ref.offsets.set 9 17362 }.violations = [.tableSpan] := by decide -- Z4
theorem test_accepts_tableSpan : Config.wellFormed { ref with offsets := ref.offsets.set 9 17361 } = true := by decide -- Z4
theorem test_refuses_idleThreshold : { ref with idleThreshold := 0 }.violations = [.idleThresholdZero] := by decide
theorem test_refuses_startThreshold : { ref with startThreshold := 0 }.violations = [.startThresholdZero] := by decide
theorem test_refuses_latencyComp : { ref with latencyComp := 2 ^ 32 }.violations = [.latencyCompWidth] := by decide
theorem test_refuses_intervalScale : { ref with intervalScale := 0 }.violations = [.intervalScaleZero] := by decide
theorem test_refuses_indicatorPeriod : { ref with indicatorPeriod := 0 }.violations = [.indicatorPeriodZero] := by decide
theorem test_refuses_linkSentinel : { ref with linkSentinel := 2 ^ 32 }.violations = [.linkSentinelWidth] := by decide
theorem test_refuses_ringCapacity_small : { ref with ringN := 3 }.violations = [.ringCapacity] := by decide -- Z5
theorem test_refuses_ringCapacity_large : { ref with ringN := 65537 }.violations = [.ringCapacity] := by decide
theorem test_refuses_ringBaseAlignment : { ref with ringBase := 2 }.violations = [.ringBaseAlignment] := by decide -- Z6
theorem test_refuses_ringRegionEnd : { ref with ringBase := 4294967232 }.violations = [.ringRegionEnd] := by decide
theorem test_accepts_ringRegionEnd : Config.wellFormed { ref with ringBase := 4294967228 } = true := by decide

/-! ### Decoding: words written out bit by bit, `st m h d c l`, from spec/30_encoding.md R63 to R65 -/

theorem test_decode_idleClr : decode (.step 0b00001111) = .ok .idleClr := by decide
theorem test_decode_idleCnt : decode (.step 0b00010111) = .ok .idleCnt := by decide
theorem test_decode_idleArm : decode (.step 0b00011111) = .ok .idleArm := by decide
theorem test_decode_awaitAge : decode (.step 0b00101111) = .ok .awaitAge := by decide
theorem test_decode_awaitCnt : decode (.step 0b00110111) = .ok .awaitCnt := by decide
theorem test_decode_awaitEdge : decode (.step 0b00111111) = .ok .awaitEdge := by decide
theorem test_decode_confWait : decode (.step 0b01011011) = .ok .confWait := by decide
theorem test_decode_confOk : decode (.step 0b01011101) = .ok .confOk := by decide
theorem test_decode_confFalse : decode (.step 0b01011111) = .ok .confFalse := by decide
theorem test_decode_dataWait : decode (.step 0b01111011) = .ok .dataWait := by decide
theorem test_decode_dataBit_low : decode (.step 0b01100100) = .ok (.dataBit false) := by decide
theorem test_decode_dataBit_high : decode (.step 0b01111110) = .ok (.dataBit true) := by decide
theorem test_decode_dataLast_low : decode (.step 0b01100101) = .ok (.dataLast false) := by decide
theorem test_decode_dataLast_high : decode (.step 0b01111111) = .ok (.dataLast true) := by decide
theorem test_decode_stopWait : decode (.step 0b10011011) = .ok .stopWait := by decide
theorem test_decode_stopInvalid : decode (.step 0b10011101) = .ok .stopInvalid := by decide
theorem test_decode_stopValid : decode (.step 0b10011111) = .ok .stopValid := by decide
theorem test_decode_rsvdReset5 : decode (.step 0b10111111) = .ok .rsvdReset5 := by decide
theorem test_decode_rsvdReset6 : decode (.step 0b11000000) = .ok .rsvdReset67 := by decide
theorem test_decode_rsvdReset7 : decode (.step 0b11111111) = .ok .rsvdReset67 := by decide
theorem test_decode_haltCont : decode (.halt 0b0) = .ok .haltCont := by decide
theorem test_decode_haltStop : decode (.halt 0b1) = .ok .haltStop := by decide
theorem test_decode_bootCfg : decode (.boot 0b000) = .ok .bootCfg := by decide
theorem test_decode_bootHead : decode (.boot 0b001) = .ok .bootHead := by decide
theorem test_decode_bootTail : decode (.boot 0b010) = .ok .bootTail := by decide
theorem test_decode_bootDiag0 : decode (.boot 0b011) = .ok .bootDiag0 := by decide
theorem test_decode_bootDiag1 : decode (.boot 0b100) = .ok .bootDiag1 := by decide
theorem test_decode_bootDiag2 : decode (.boot 0b101) = .ok .bootDiag2 := by decide
theorem test_decode_bootRun : decode (.boot 0b110) = .ok .bootRun := by decide
theorem test_decode_boot_reserved : decode (.boot 0b111) = .error .reservedBootIndex := by decide

theorem test_table_word_step : decodeTableWord 8 0x86 = some .stopValid := by decide
theorem test_table_word_halt : decodeTableWord 1 1 = some .haltStop := by decide
theorem test_table_word_boot : decodeTableWord 3 4 = some .bootDiag1 := by decide
theorem test_table_word_too_wide : decodeTableWord 3 8 = none := by decide
theorem test_table_word_no_format : decodeTableWord 16 0 = none := by decide

/-- The encoder's words, checked against the match column of spec/30_encoding.md R63 with the operand in bit 1. -/
theorem test_encode_operand : encode (.dataLast true) = .step 0x67 ∧ encode (.dataBit false) = .step 0x64 := by decide

/-- The operations' bit masks do not overlap their operand bits, for an operation of each kind. -/
theorem test_encoded_form : Laws.EncodedForm.Statement (.dataBit true) := Laws.EncodedForm.dataBit true

/-! ### Single steps -/

/-- What a step shows of its next state; nothing when it stops. -/
def seen {α : Type} (f : State → α) : Result → Option α
  | .next t => some (f t)
  | .fault _ => none
  | .refused _ => none

/-- The header and the three diagnostic entries of the reference configuration, bytes 0 to 15 (vector Z1). -/
def startedMem : Memory :=
  [(0, 0x00), (1, 0x00), (2, 0x03), (3, 0x00), (4, 0xA6), (5, 0xD1), (6, 0x01), (7, 0x00)] ++
  [(8, 0xA6), (9, 0xD1), (10, 0x02), (11, 0x00), (12, 0xA6), (13, 0xD1), (14, 0x03), (15, 0x00)]

/-- After the start-up sequence, in state `d` (vector Z1; its eleven writes are left out of `events`). -/
def started (d : DecoderState) : State :=
  { State.resetWith ref with phase := .run, bseq := 6, st := d, tail := 3, mem := startedMem }

/-- `s` with one iteration's inputs ahead. -/
def facing (s : State) (now : Tick) (cur shut : Bool) : State := { s with inputs := [Input.quiet now cur shut] }

/-- In the start-up sequence, at index `k`. -/
def booting (k : BitVec 3) : State := { State.resetWith ref with bseq := k, inputs := bootInputs }

theorem test_idleCnt_A1 :
    seen (fun t => (t.idleCnt, t.st)) (step (facing { started .idle with idleCnt := 20998, prev := true } 0 true false)) =
      some (20999, .idle) := by decide
theorem test_idleArm_A2 :
    seen (fun t => (t.idleCnt, t.st)) (step (facing { started .idle with idleCnt := 20999, prev := true } 0 true false)) =
      some (0, .await) := by decide
theorem test_idleCnt_A3 :
    seen (fun t => (t.idleCnt, t.st)) (step (facing
      { started .idle with cfg := { ref with idleThreshold := 21001 }, idleCnt := 20999, prev := true } 0 true false)) =
      some (21000, .idle) := by decide
theorem test_idleClr_A5 :
    seen (fun t => (t.idleCnt, t.prev)) (step (facing { started .idle with idleCnt := 777, prev := true } 0 false false)) =
      some (0, false) := by decide
theorem test_idleClr_A6 :
    seen (fun t => (t.idleCnt, t.prev)) (step (facing (started .idle) 0 true false)) = some (0, true) := by decide
theorem test_idleArm_Z7 :
    seen (fun t => t.st) (step (facing
      { started .idle with cfg := { ref with idleThreshold := 1 }, prev := true } 0 true false)) = some .await := by decide
theorem test_awaitCnt_A8 :
    seen (fun t => (t.lowCnt, t.linkCountdown)) (step (facing
      { started .await with lowCnt := 2, linkCountdown := 5 } 0 false false)) = some (3, 5) := by decide
theorem test_awaitEdge_A9 :
    seen (fun t => (t.lowCnt, t.startTick, t.st, t.linkCountdown)) (step (facing
      { started .await with lowCnt := 3, linkCountdown := 5 } 100 false false)) =
      some (0, 4294967096, .confirm, 5) := by decide
theorem test_awaitAge_A10 :
    seen (fun t => (t.lowCnt, t.linkCountdown)) (step (facing
      { started .await with lowCnt := 3, linkCountdown := 1 } 0 true false)) = some (0, 0) := by decide
theorem test_awaitAge_A11 :
    seen (fun t => (t.linkCountdown, t.st)) (step (facing { started .await with prev := true } 0 false false)) =
      some (0, .await) := by decide
theorem test_confWait_T2 :
    seen (fun t => (t.st, t.prev)) (step (facing { started .confirm with startTick := 0xFFFFFF00 } 0x263 true false)) =
      some (.confirm, true) := by decide
theorem test_confOk_T3 :
    seen (fun t => t.st) (step (facing { started .confirm with startTick := 0xFFFFFF00 } 0x264 false false)) =
      some .data := by decide
theorem test_confOk_A14 :
    seen (fun t => (t.dataByte, t.bitIndex, t.bitMask)) (step (facing
      { started .confirm with startTick := 1000, dataByte := 0x77, bitIndex := 9, bitMask := 0x100 } 1868 false false)) =
      some (0, 1, 1) := by decide
theorem test_confFalse_A13 :
    seen (fun t => (t.st, t.events)) (step (facing { started .confirm with startTick := 1000 } 1868 true false)) =
      some (.idle, []) := by decide
theorem test_dataWait_T5 :
    seen (fun t => (t.dataByte, t.bitIndex)) (step (facing
      { started .data with startTick := 5000, bitIndex := 3, bitMask := 4, dataByte := 1 } 11075 true false)) =
      some (1, 3) := by decide
theorem test_dataWait_B4 :
    seen (fun t => (t.bitIndex, t.st)) (step (facing
      { started .data with bitIndex := 8, bitMask := 0x80, dataByte := 0x7F } 14755 true false)) =
      some (8, .data) := by decide
theorem test_dataBit_T7 :
    seen (fun t => (t.dataByte, t.bitMask, t.bitIndex)) (step (facing
      { started .data with startTick := 5000, bitIndex := 3, bitMask := 4, dataByte := 1 } 23000 true false)) =
      some (5, 8, 4) := by decide
theorem test_dataBit_B2 :
    seen (fun t => (t.dataByte, t.bitMask, t.bitIndex)) (step (facing
      { started .data with bitIndex := 7, bitMask := 0x40, dataByte := 0x3F } 13020 false false)) =
      some (0x3F, 0x80, 8) := by decide
theorem test_dataLast_B3 :
    seen (fun t => (t.dataByte, t.bitMask, t.bitIndex, t.st)) (step (facing
      { started .data with bitIndex := 8, bitMask := 0x80, dataByte := 0x7F } 14756 true false)) =
      some (0xFF, 0x100, 9, .stop) := by decide
theorem test_stopWait_T8 :
    seen (fun t => (t.st, t.tail)) (step (facing { started .stop with startTick := 5000 } 21492 true false)) =
      some (.stop, 3) := by decide
theorem test_stopValid_B9 :
    seen (fun t => (t.events.take 1, t.lastByteTick)) (step (facing
      { started .stop with startTick := 0x100 - 20000, dataByte := 0x5A, lastByteTick := 0xFFFFFF00 } 0x100 true false)) =
      some ([.ringWrite 16 2], 256) := by decide
theorem test_stopValid_B11 :
    seen (fun t => (t.events, t.linkCountdown, t.byteCounter, t.indicator, t.st)) (step (facing
      { started .stop with dataByte := 0x5A, lastByteTick := 1000, byteCounter := 49 } 20000 true false)) =
      some ([.ringWrite 16 95, .ringWrite 18 0x5A, .ringWrite 2 4], 100000, 0, true, .await) := by decide
theorem test_stopInvalid_B12 :
    seen (fun t => (t.events, t.lastByteTick, t.linkCountdown, t.byteCounter, t.indicator)) (step (facing
      { started .stop with dataByte := 0x5A, lastByteTick := 1000, byteCounter := 49, indicator := true,
                           linkCountdown := 77 } 20000 false false)) =
      some ([.ringWrite 16 0, .ringWrite 18 0x5A, .ringWrite 2 4], 1000, 77, 49, true) := by decide
theorem test_rsvdReset5 :
    seen (fun t => (t.st, t.idleCnt, t.lowCnt)) (step (facing { started .rsvd5 with idleCnt := 9, lowCnt := 2 } 0 true false)) =
      some (.idle, 0, 0) := by decide
theorem test_rsvdReset7 :
    seen (fun t => (t.st, t.idleCnt, t.lowCnt)) (step (facing { started .rsvd7 with idleCnt := 9, lowCnt := 2 } 0 true false)) =
      some (.idle, 0, 0) := by decide
theorem test_haltStop_H2 :
    seen (fun t => (t.idleCnt, t.phase, t.events)) (step (facing
      { started .idle with idleCnt := 5, prev := true } 0 true true)) = some (6, .halted, [.complete]) := by decide
theorem test_haltStop_H3 :
    seen (fun t => (t.events, t.tail, t.phase)) (step (facing
      { started .stop with dataByte := 0xFF, lastByteTick := 1000 } 20000 true true)) =
      some ([.ringWrite 16 95, .ringWrite 18 0xFF, .ringWrite 2 4, .complete], 4, .halted) := by decide
theorem test_haltCont_H1 :
    seen (fun t => (t.phase, t.events)) (step (facing (started .stop) 0 true false)) = some (.run, []) := by decide
theorem test_bootCfg_Z2 :
    seen (fun t => (t.phase, t.events)) (step { booting 0 with cfg := { ref with baud := 9600 } }) =
      some (.cfgFault, []) := by decide
theorem test_bootCfg_legal : seen (fun t => (t.phase, t.bseq)) (step (booting 0)) = some (.boot, 1) := by decide
theorem test_bootHead : seen (fun t => (t.mem, t.events)) (step (booting 1)) =
    some ([(0, 0), (1, 0)], [.ringWrite 0 0]) := by decide
theorem test_bootTail : seen (fun t => (t.mem, t.tail)) (step { booting 2 with tail := 7 }) =
    some ([(2, 0), (3, 0)], 0) := by decide
theorem test_bootDiag0 : seen (fun t => t.events) (step (booting 3)) =
    some [.ringWrite 4 0xD1A6, .ringWrite 6 1, .ringWrite 2 1] := by decide
theorem test_bootDiag1 : seen (fun t => t.events) (step { booting 4 with tail := 1 }) =
    some [.ringWrite 8 0xD1A6, .ringWrite 10 2, .ringWrite 2 2] := by decide
theorem test_bootDiag2 : seen (fun t => t.events) (step { booting 5 with tail := 2 }) =
    some [.ringWrite 12 0xD1A6, .ringWrite 14 3, .ringWrite 2 3] := by decide
theorem test_bootRun : seen (fun t => (t.phase, t.st)) (step (booting 6)) = some (.run, .idle) := by decide

theorem test_push_W1 :
    (fun t => (t.events, t.tail)) (push 0x1234 0x00AB { started .stop with
      cfg := { ref with ringBase := 0x2000, ringN := 256 }, tail := 255 }) =
      ([Event.ringWrite 0x2400 0x1234, .ringWrite 0x2402 0x00AB, .ringWrite 0x2002 0], 0) := by decide
theorem test_push_W2 :
    (fun t => (t.events, t.tail)) (push 1 2 { started .stop with cfg := { ref with ringN := 65536 }, tail := 65535 }) =
      ([Event.ringWrite 262144 1, .ringWrite 262146 2, .ringWrite 2 0], 0) := by decide

/-- A table word placed on the reset state is run by the very next step. -/
theorem test_fetch_stopValid :
    seen (fun t => (t.st, t.byteCounter)) (step (State.reset.withFetchWord 8 0x86)) = some (.await, 1) := by decide
theorem test_fetch_haltStop : seen (fun t => t.phase) (step (State.reset.withFetchWord 1 1)) = some .halted := by decide
theorem test_fetch_bootRun : seen (fun t => t.phase) (step (State.reset.withFetchWord 3 6)) = some .run := by decide

/-! ### Witnesses: the hypotheses of the statements can be met -/

/-- A state in which the ring is legal and the tail an index of it: the hypotheses of the statements about pushes. -/
theorem witness_legal_ring : (started .stop).cfg.isLegal = true ∧ (started .stop).tail.toNat < (started .stop).cfg.ringN := by
  decide

/-- StepMapDecodesEveryWord: for each row, the last word that its mask selects. -/
theorem witness_StepMap :
    (0x0F : BitVec 8) &&& 0xF0 = 0x00 ∧ (0x17 : BitVec 8) &&& 0xF8 = 0x10 ∧ (0x1F : BitVec 8) &&& 0xF8 = 0x18 ∧
    (0x2F : BitVec 8) &&& 0xF0 = 0x20 ∧ (0x37 : BitVec 8) &&& 0xF8 = 0x30 ∧ (0x3F : BitVec 8) &&& 0xF8 = 0x38 ∧
    (0x5B : BitVec 8) &&& 0xE4 = 0x40 ∧ (0x5D : BitVec 8) &&& 0xE6 = 0x44 ∧ (0x5F : BitVec 8) &&& 0xE6 = 0x46 ∧
    (0x7B : BitVec 8) &&& 0xE4 = 0x60 ∧ (0x7E : BitVec 8) &&& 0xE5 = 0x64 ∧ (0x7F : BitVec 8) &&& 0xE5 = 0x65 ∧
    (0x9B : BitVec 8) &&& 0xE4 = 0x80 ∧ (0x9D : BitVec 8) &&& 0xE6 = 0x84 ∧ (0x9F : BitVec 8) &&& 0xE6 = 0x86 ∧
    (0xBF : BitVec 8) &&& 0xE0 = 0xA0 ∧ (0xFF : BitVec 8) &&& 0xC0 = 0xC0 := by decide

theorem witness_DecodeOfEncode : (Instr.dataLast true).wellFormed = true := by decide

/-- SelectorPacksThePredicates: the selectors of the eight decoder states (spec/30_encoding.md R61, R62). -/
theorem witness_SelectorPacks :
    sel (started .idle) = 0x00 ∧ sel { started .await with cur := true } = 0x22 ∧
    sel (started .confirm) = 0x40 ∧ sel { started .data with bitIndex := 8, now := 14756 } = 0x65 ∧
    sel { started .stop with now := 16493, cur := true } = 0x86 ∧ sel (started .rsvd5) = 0xA0 ∧
    sel (started .rsvd6) = 0xC0 ∧ sel (started .rsvd7) = 0xE0 := by decide

/-- IdleOperationsSelectionAndEffect: each clause, the counting ones on both sides of the threshold. -/
theorem witness_Idle :
    (let s := started .idle; s.st = .idle ∧ ¬(s.prev = true ∧ s.cur = true)) ∧
    (let s := { started .idle with prev := true, cur := true, idleCnt := 20998 }
     s.st = .idle ∧ s.prev = true ∧ s.cur = true ∧ s.idleCnt.toNat + 1 < s.cfg.idleThreshold) ∧
    (let s := { started .idle with prev := true, cur := true, idleCnt := 20999 }
     s.st = .idle ∧ s.prev = true ∧ s.cur = true ∧ s.idleCnt.toNat + 1 ≥ s.cfg.idleThreshold) := by decide

/-- AwaitOperationsSelectionAndEffect: each clause. -/
theorem witness_Await :
    (let s := { started .await with cur := true }; s.st = .await ∧ ¬(s.prev = false ∧ s.cur = false)) ∧
    (let s := { started .await with lowCnt := 2 }
     s.st = .await ∧ s.prev = false ∧ s.cur = false ∧ s.lowCnt.toNat + 1 < s.cfg.startThreshold) ∧
    (let s := { started .await with lowCnt := 3 }
     s.st = .await ∧ s.prev = false ∧ s.cur = false ∧ s.lowCnt.toNat + 1 ≥ s.cfg.startThreshold) := by decide

/-- ConfirmOperationsSelectionAndEffect: each clause, one tick before and exactly at the offset 868. -/
theorem witness_Confirm :
    (let s := { started .confirm with now := 867 }
     s.st = .confirm ∧ s.cfg.offsets[0]? = some 868 ∧ (s.now - s.startTick).toNat < 868) ∧
    (let s := { started .confirm with now := 868 }
     s.st = .confirm ∧ s.cfg.offsets[0]? = some 868 ∧ (s.now - s.startTick).toNat ≥ 868 ∧ s.cur = false) ∧
    (let s := { started .confirm with now := 868, cur := true }
     s.st = .confirm ∧ s.cfg.offsets[0]? = some 868 ∧ (s.now - s.startTick).toNat ≥ 868 ∧ s.cur = true) := by decide

/-- DataOperationsSelectionAndEffect: each clause, at the first, the seventh and the eighth bit. -/
theorem witness_Data :
    (let s := { started .data with now := 2603 }
     s.st = .data ∧ s.cfg.offsets[s.bitIndex.toNat]? = some 2604 ∧ (s.now - s.startTick).toNat < 2604) ∧
    (let s := { started .data with now := 13020, bitIndex := 7 }
     s.st = .data ∧ s.cfg.offsets[s.bitIndex.toNat]? = some 13020 ∧ (s.now - s.startTick).toNat ≥ 13020 ∧
       s.bitIndex ≠ 8) ∧
    (let s := { started .data with now := 14756, bitIndex := 8 }
     s.st = .data ∧ s.cfg.offsets[s.bitIndex.toNat]? = some 14756 ∧ (s.now - s.startTick).toNat ≥ 14756 ∧
       s.bitIndex = 8) := by decide

/-- StopWaitSelectionAndEffect, StopInvalidPushesSentinel, StopValidPushesInterval: each clause. -/
theorem witness_Stop :
    (let s := { started .stop with now := 16492 }
     s.st = .stop ∧ s.cfg.offsets[9]? = some 16493 ∧ (s.now - s.startTick).toNat < 16493) ∧
    (let s := { started .stop with now := 16493 }
     s.cfg.isLegal = true ∧ s.tail.toNat < s.cfg.ringN ∧ s.st = .stop ∧ s.cfg.offsets[9]? = some 16493 ∧
       (s.now - s.startTick).toNat ≥ 16493 ∧ s.cur = false) ∧
    (let s := { started .stop with now := 16493, cur := true, byteCounter := 49 }
     s.cfg.isLegal = true ∧ s.tail.toNat < s.cfg.ringN ∧ s.st = .stop ∧ s.cfg.offsets[9]? = some 16493 ∧
       (s.now - s.startTick).toNat ≥ 16493 ∧ s.cur = true ∧ s.byteCounter.toNat + 1 = s.cfg.indicatorPeriod) ∧
    (let s := { started .stop with now := 16493, cur := true, byteCounter := 48 }
     s.byteCounter.toNat + 1 ≠ s.cfg.indicatorPeriod) := by decide

/-- ReservedStatesReturnToIdle: each clause. -/
theorem witness_Reserved : (started .rsvd5).st = .rsvd5 ∧ (started .rsvd6).st = .rsvd6 ∧ (started .rsvd7).st = .rsvd7 := by
  decide

/-- BootCfgChecksEveryConstraint: both clauses, the last value that the table's span admits and the first that it does
not (vector Z4). -/
theorem witness_BootCfg :
    (seen (fun t => t.phase) (exec .bootCfg
      { booting 0 with cfg := { ref with offsets := ref.offsets.set 9 17361 } }) = some .boot) ∧
    (seen (fun t => t.phase) (exec .bootCfg
      { booting 0 with cfg := { ref with offsets := ref.offsets.set 9 17362 } }) = some .cfgFault) := by decide

/-- BootDiagPushesEntries, PushWritesEntryThenTail: the largest index of the largest ring. -/
theorem witness_Push :
    (let s := { booting 3 with cfg := { ref with ringN := 65536 }, tail := 65535 }
     s.cfg.isLegal = true ∧ s.tail.toNat < s.cfg.ringN) := by decide

/-- TailIsPublishedAfterTheEntry: before the last beat the old tail, after it the new one. -/
theorem witness_Publish :
    (started .stop).cfg.isLegal = true ∧ (started .stop).tail.toNat < (started .stop).cfg.ringN ∧
    Memory.read16 (started .stop).mem (tailAddr ref) = some (started .stop).tail ∧
    Memory.read16 (replay ((push 7 9 (started .stop)).events.take 2) startedMem) (tailAddr ref) = some 3 ∧
    Memory.read16 (replay ((push 7 9 (started .stop)).events.take 3) startedMem) (tailAddr ref) = some 4 := by decide

/-- RingAddressesAreTheLayout: the last slot of a ring at the end of the address space. -/
theorem witness_RingAddresses :
    ({ ref with ringBase := 4294967228 }.isLegal = true) ∧ (15 : Half).toNat < ref.ringN := by decide

/-- WordsAreLittleEndian: the last address at which a word fits, and two bytes to read. -/
theorem witness_Words :
    (4294967294 : Addr).toNat + 1 < 2 ^ 32 ∧ Memory.read startedMem (4 : Addr).toNat = some 0xA6 ∧
    Memory.read startedMem ((4 : Addr).toNat + 1) = some 0xD1 := by decide

theorem witness_Interval : 1 ≤ (started .stop).cfg.intervalScale := by decide

/-- IndicatorTogglesEveryPeriod: the largest period its counter can hold. -/
theorem witness_Indicator :
    (let s := { started .stop with cfg := { ref with indicatorPeriod := 256 } }
     1 ≤ s.cfg.indicatorPeriod ∧ s.cfg.indicatorPeriod ≤ 256 ∧ s.byteCounter = 0) := by decide

/-- PushesFillThenOverwrite: lists of the lengths its clauses speak of. -/
theorem witness_PushesFill :
    (let s := { started .idle with tail := 0 }
     s.cfg.isLegal = true ∧ s.tail = 0 ∧ Memory.read16 s.mem (headAddr s.cfg) = some 0 ∧
     (List.replicate 15 (⟨1, 2⟩ : RingEntry)).length < s.cfg.ringN ∧
     (List.replicate 17 (⟨1, 2⟩ : RingEntry)).length = s.cfg.ringN + 1) := by decide

/-- RunStepIsOneIteration, OneEntryPerFrame: a RUN state with an input that resets nothing. -/
theorem witness_RunStep :
    (let s := facing (started .stop) 16493 true false
     s.phase = .run ∧ (nextInput s).reset = false ∧ sel (iterationStart s) = 0x86 ∧
     decodeStep (sel (iterationStart s)) = .ok .stopValid) ∧
    (let s := facing (started .stop) 16493 true true
     s.phase = .run ∧ (nextInput s).reset = false ∧ (nextInput s).shutdown = true ∧
     decodeStep (sel (iterationStart s)) = .ok .stopValid) := by decide

/-- BootStepRunsTheIndexedOperation, StepStopsOnlyOnTheReservedIndex: both clauses. -/
theorem witness_BootStep :
    (let s := booting 6; s.phase = .boot ∧ (nextInput s).reset = false ∧ decodeBoot s.bseq = .ok .bootRun) ∧
    (let s := booting 7; s.phase = .boot ∧ (nextInput s).reset = false ∧ s.bseq = 7) := by decide

/-- ResetInputRestoresResetState: an input that resets the block. -/
theorem witness_ResetInput : (nextInput { started .data with inputs := [⟨5, true, true, true, []⟩] }).reset = true := by
  decide

/-- MissingTableEntryIsNotDue: the three waiting clauses with a table that is too short, and both sides of the boundary with
a legal one. -/
theorem witness_MissingTableEntry :
    (let s := { started .confirm with cfg := { ref with offsets := [] } }
     s.st = .confirm ∧ s.cfg.offsets[0]? = none) ∧
    (let s := { started .data with bitIndex := 11, now := 99999 }
     s.st = .data ∧ s.cfg.offsets[s.bitIndex.toNat]? = none ∧ s.cfg.isLegal = true ∧ 10 < s.bitIndex.toNat ∧
     sel s = 0x60) ∧
    (let s := { started .data with bitIndex := 10, now := 99999 }
     s.cfg.offsets[s.bitIndex.toNat]? = some 18229 ∧ ¬ 10 < s.bitIndex.toNat ∧ sel s = 0x64) ∧
    (let s := { started .stop with cfg := { ref with offsets := ref.offsets.take 9 } }
     s.st = .stop ∧ s.cfg.offsets[9]? = none) := by decide

/-- StartUpSequence: seven inputs that reset nothing and write nothing. -/
theorem witness_StartUp :
    ref.isLegal = true ∧ bootInputs.length = 7 ∧ ∀ i ∈ bootInputs, i.reset = false ∧ i.agentWrites = [] := by decide

/-- IllegalConfigNeverRuns: an illegal configuration and inputs. -/
theorem witness_IllegalConfig :
    { ref with baud := 9600 }.isLegal = false ∧ bootInputs ≠ [] ∧
    ∀ i ∈ bootInputs, i.reset = false ∧ i.agentWrites = [] := by decide

/-- Inputs of which the second carries a write of the consumer to `head`. -/
def foreignWrites : List Input := [Input.quiet 1 true false, ⟨2, true, true, false, [⟨0, 5⟩]⟩]

/-- NoStepAfterTheHalt: both phases, and a foreign write that lands. -/
theorem witness_NoStep :
    (let s := { started .data with phase := .halted, inputs := foreignWrites ++ [] }
     (s.phase = .halted ∨ s.phase = .cfgFault) ∧ s.inputs = foreignWrites ++ [] ∧ (∀ i ∈ foreignWrites, i.reset = false) ∧
     seen (fun t => Memory.read16 t.mem 0) (runSteps 2 s) = some (some 5)) ∧
    (let s := { State.resetWith ref with phase := .cfgFault, inputs := foreignWrites ++ [] }
     (s.phase = .halted ∨ s.phase = .cfgFault) ∧ s.inputs = foreignWrites ++ [] ∧
     ∀ i ∈ foreignWrites, i.reset = false) := by decide

/-- The state in which a frame's stop bit is about to be sampled meets the invariants. -/
def atStop : State :=
  { started .stop with bitIndex := 9, bitMask := 0x100, dataByte := 0x5A,
                       inputs := [Input.quiet 20000 true true] }

theorem atStop_inv : Inv atStop where
  canonical := by decide
  checked := .inl (by decide)
  starting := fun h => absurd h (by decide)
  decoding := fun _ => ⟨by unfold V1; decide, by unfold V2; decide, by unfold V3; decide, by unfold V4; decide,
    by unfold V5; decide, by unfold V6; decide, by unfold V7; decide⟩
  completed := by unfold V8; decide

/-- ShutdownHaltsWithinTheIteration. -/
theorem witness_Shutdown : atStop.phase = .run ∧ (nextInput atStop).reset = false ∧ (nextInput atStop).shutdown = true := by
  decide

/-- EveryStepKeepsTheInvariants: a consumer that writes `head` keeps its role. -/
theorem witness_EveryStep :
    Inv { atStop with inputs := [⟨20000, true, false, false, [⟨0, 2⟩]⟩] } ∧
    keepsRoles ref ⟨20000, true, false, false, [⟨0, 2⟩]⟩ :=
  ⟨⟨atStop_inv.canonical, atStop_inv.checked, atStop_inv.starting, atStop_inv.decoding, atStop_inv.completed⟩, by
    intro w hw
    simp only [List.mem_singleton] at hw
    subst hw
    unfold blockOwns
    decide⟩

/-- HeadIsWrittenOnceAtStartUp, WritesStayInTheRingRegion, OneEntryPerFrame, MemoryIsTheReplayOfTheWrites and
StepsKeepMemoryCanonical: a step with a next state from a state that meets the invariants. -/
theorem witness_next_step : ∃ t, Inv atStop ∧ Memory.wf atStop.mem ∧ step atStop = .next t ∧
    (nextInput atStop).reset = false ∧ (nextInput atStop).agentWrites = [] ∧ ¬(atStop.phase = .boot ∧ atStop.bseq = 1) ∧
    atStop.cfg.isLegal = true ∧ atStop.st = .stop ∧ t.st = .await :=
  ⟨_, atStop_inv, by decide, rfl, by decide, by decide, by decide, by decide, by decide, rfl⟩

/-- StateFollowsTransitionTable, CountdownMovesOnlyByAgeAndValid, FrameAlignmentTouchesNoMemory: an operation of each kind
their clauses speak of. -/
theorem witness_exec_next :
    (∃ t, exec .awaitAge (started .await) = .next t) ∧ (∃ t, exec .stopValid (started .stop) = .next t) ∧
    (∃ t, exec .idleArm (started .idle) = .next t) ∧
    (∃ t, exec .confOk (started .confirm) = .next t) ∧
    decodeStep (sel { started .await with cur := true }) = .ok .awaitAge ∧ (started .stop).cfg.linkSentinel < 2 ^ 32 :=
  ⟨⟨_, rfl⟩, ⟨_, rfl⟩, ⟨_, rfl⟩, ⟨_, rfl⟩, by decide, by decide⟩

/-- ConfigurationNeverChanges, CosmeticRegistersDoNotInfluenceTheBlock: a run with a next state, from two states that differ
in a cosmetic register. -/
theorem witness_Cosmetic : ∃ s', runSteps 1 atStop = .next s' ∧
    sameButCosmetic atStop { atStop with linkCountdown := 9 } := ⟨_, rfl, rfl⟩

/-- MemoryDoesNotInfluenceTheBlock. -/
theorem witness_Memory : ∃ s', step atStop = .next s' ∧ sameButMemory atStop { atStop with mem := [] } := ⟨_, rfl, rfl⟩

/-- IdleLineArmsAtTheThreshold: both lengths, with a threshold of 2. -/
theorem witness_IdleLine :
    (let s := { started .idle with cfg := { ref with idleThreshold := 2 }, prev := true,
                                   inputs := [3, 4].map (fun n => Input.quiet n true false) ++ [] }
     s.phase = .run ∧ s.st = .idle ∧ s.prev = true ∧ s.idleCnt = 0 ∧ 1 ≤ s.cfg.idleThreshold ∧
     s.cfg.idleThreshold ≤ 2 ^ 32 ∧ ([3, 4] : List Tick).length = s.cfg.idleThreshold ∧
     ([3] : List Tick).length < s.cfg.idleThreshold) := by decide

/-- The ticks that meet every offset of the reference table exactly, measured from 0. -/
def dueTicks (k : Nat) : Tick := BitVec.ofNat 32 (ref.offsets.getD k 0)

/-- A frame with byte 0x5A, one iteration for each due sample. -/
def frameAhead (stop : Bool) : State :=
  { started .confirm with
    inputs := (List.range 10).map (fun k => Input.quiet (dueTicks k) (cellLevel 0x5A stop k) false) ++ [] }

/-- FrameOfDueSamplesPushesItsByte: every sample exactly due, for both levels of the stop bit. -/
theorem witness_Frame : ∀ stop : Bool,
    (frameAhead stop).cfg.isLegal = true ∧ (frameAhead stop).tail.toNat < (frameAhead stop).cfg.ringN ∧
    (frameAhead stop).phase = .run ∧ (frameAhead stop).st = .confirm ∧
    (∀ k, k < 10 → ∃ o, (frameAhead stop).cfg.offsets[k]? = some o ∧ o ≤ (dueTicks k - (frameAhead stop).startTick).toNat) ∧
    (frameAhead stop).inputs =
      (List.range 10).map (fun k => Input.quiet (dueTicks k) (cellLevel 0x5A stop k) false) ++ [] := by
  intro stop
  refine ⟨by revert stop; decide, by revert stop; decide, rfl, rfl, ?_, rfl⟩
  have all : ∀ j : Fin 10, ref.offsets[j.val]? = some (ref.offsets.getD j 0) ∧
      ref.offsets.getD j 0 ≤ (dueTicks j - (0 : Tick)).toNat := by decide
  exact fun k hk => ⟨_, all ⟨k, hk⟩⟩

end Sys2Proof.Tests
end

section
/-! PROOFS of the family 20_memory: the layout of the ring (spec/20_memory.md R42) and the order of the beats of a `PUSH`
(R46). What the replay of a trace of beats leaves in memory is said once, for any trace. -/

namespace Sys2Proof.Machine

open Sys2Proof

/-! ### replay: memory after a trace of beats -/

@[simp] theorem replay_nil (m : Memory) : replay [] m = m := rfl

@[simp] theorem replay_cons_ringWrite (a : Addr) (v : Half) (es : List Event) (m : Memory) :
    replay (.ringWrite a v :: es) m = replay es (Memory.write16 m a v) := rfl

@[simp] theorem replay_cons_complete (es : List Event) (m : Memory) : replay (.complete :: es) m = replay es m := rfl

/-- A trace leaves alone every 16-bit word that shares no byte with a word it writes. -/
theorem read16_replay_ne {b : Addr} (es : List Event) (m : Memory)
    (h : ∀ a v, .ringWrite a v ∈ es → b ≠ a ∧ b ≠ nextAddr a ∧ nextAddr b ≠ a) :
    Memory.read16 (replay es m) b = Memory.read16 m b := by
  induction es generalizing m with
  | nil => rfl
  | cons e es ih =>
    have htail := fun m => ih m fun a v hmem => h a v (List.mem_cons_of_mem _ hmem)
    cases e with
    | ringWrite a v =>
      obtain ⟨h0, h1, h2⟩ := h a v List.mem_cons_self
      rw [replay_cons_ringWrite, htail, read16_write16_ne m v h0 h1 h2]
    | complete => rw [replay_cons_complete, htail]

/-! ### The beats of a `PUSH` -/

/-- The three beats of `PUSH`, in the order of spec/20_memory.md R46. -/
def pushBeats (v p : Half) (s : State) : List Event :=
  [.ringWrite (valueAddr s.cfg s.tail) v, .ringWrite (payloadAddr s.cfg s.tail) p,
    .ringWrite (tailAddr s.cfg) (push v p s).tail]

theorem push_events_pushBeats (v p : Half) (s : State) : (push v p s).events = s.events ++ pushBeats v p s :=
  push_events v p s

/-- An agent that has seen all three beats reads the memory that `PUSH` leaves. -/
theorem replay_pushBeats (v p : Half) (s : State) : replay (pushBeats v p s) s.mem = (push v p s).mem := rfl

/-- In a ring of two slots or more the index step leaves the index. -/
theorem incmod_ne {n : Nat} {v : Half} (h1 : 2 ≤ n) (h2 : n ≤ 65536) (hv : v.toNat < n) : incmod v n ≠ v := by
  intro heq
  have hmod : (v.toNat + 1) % n = v.toNat := by rw [← incmod_toNat v (by omega) h2, heq]
  rcases Nat.lt_or_ge (v.toNat + 1) n with hlt | hge
  · rw [Nat.mod_eq_of_lt hlt] at hmod
    omega
  · rw [show v.toNat + 1 = n by omega, Nat.mod_self] at hmod
    omega

/-- `PUSH` into a slot of a legal ring moves the tail. -/
theorem push_tail_ne (v p : Half) {s : State} (h : s.cfg.isLegal = true) (ht : s.tail.toNat < s.cfg.ringN) :
    (push v p s).tail ≠ s.tail := by
  obtain ⟨hmin, hmax⟩ := legal_ringN h
  exact incmod_ne (by omega) hmax ht

/-- Before its last beat, `PUSH` into a slot of a legal ring leaves the tail in memory alone. -/
theorem read16_tail_before_publish (v p : Half) {s : State} {k : Nat} (h : s.cfg.isLegal = true)
    (ht : s.tail.toNat < s.cfg.ringN) (hk : k < 3) :
    Memory.read16 (replay ((pushBeats v p s).take k) s.mem) (tailAddr s.cfg) = Memory.read16 s.mem (tailAddr s.cfg) := by
  obtain ⟨-, -, t1, t2⟩ := ring_addresses h
  obtain ⟨v1, v2, p1, p2⟩ := slot_addresses h ht
  have hentry : (pushBeats v p s).take k =
      [.ringWrite (valueAddr s.cfg s.tail) v, .ringWrite (payloadAddr s.cfg s.tail) p].take k :=
    List.take_append_of_le_length (l₁ := [_, _]) (Nat.le_of_lt_succ hk)
  rw [hentry]
  refine read16_replay_ne _ _ fun a w hmem => ?_
  have hwrite : a = valueAddr s.cfg s.tail ∧ w = v ∨ a = payloadAddr s.cfg s.tail ∧ w = p := by
    simpa using List.mem_of_mem_take hmem
  rcases hwrite with ⟨rfl, -⟩ | ⟨rfl, -⟩
  · exact ⟨addr_ne (by omega), addr_ne (by omega), addr_ne (by omega)⟩
  · exact ⟨addr_ne (by omega), addr_ne (by omega), addr_ne (by omega)⟩

/-! ### The obligations -/

/-- Settles O20: before the third beat the tail in memory is the old one, which is not the new one; from the third beat on
the agent reads the memory that `PUSH` leaves, which holds the entry. -/
theorem tailIsPublishedAfterTheEntry : Obligations.TailIsPublishedAfterTheEntry := by
  intro s v p k hlegal htail hmem
  have hold : k < 3 →
      Memory.read16 (replay ((pushBeats v p s).take k) s.mem) (tailAddr s.cfg) = some s.tail := fun hk => by
    rw [read16_tail_before_publish v p hlegal htail hk, hmem]
  refine ⟨pushBeats v p s, push_events_pushBeats v p s, rfl, hold, fun hnew => ?_⟩
  rcases Nat.lt_or_ge k 3 with hk | hk
  · have hsame : s.tail = (push v p s).tail := Option.some.inj ((hold hk).symm.trans hnew)
    exact absurd hsame.symm (push_tail_ne v p hlegal htail)
  · have hall : (pushBeats v p s).take k = pushBeats v p s := List.take_of_length_le hk
    rw [hall, replay_pushBeats]
    exact push_read_entry v p s hlegal htail

/-- Settles O21: the region of a legal ring ends inside the address space, so no sum of the layout wraps. -/
theorem ringAddressesAreTheLayout : Obligations.RingAddressesAreTheLayout := by
  intro c hlegal
  obtain ⟨hhead, -, htail, -⟩ := ring_addresses hlegal
  refine ⟨hhead, htail, fun k hk => ?_⟩
  obtain ⟨hvalue, -, hpayload, -⟩ := slot_addresses hlegal hk
  exact ⟨hvalue, hpayload⟩

end Sys2Proof.Machine
end

section
/-! PROOFS of the family 30_encoding: the STEP operation map (spec/30_encoding.md R63) and the state graph (R66). That the
map decodes every word rests on two facts: no two of its rows match one word, and every word is the selector of some state. -/

namespace Sys2Proof

/-! ### The rows of the STEP map -/

theorem StepRow.matches_iff (r : StepRow) (w : BitVec 8) : r.matches w = true ↔ w &&& r.mask = r.pattern := beq_iff_eq

/-- The match values of two rows differ in a bit that both masks hold. -/
def StepRow.Disjoint (a b : StepRow) : Prop := a.pattern &&& b.mask ≠ b.pattern &&& a.mask

theorem StepRow.disjoint_symm : Std.Symm StepRow.Disjoint := ⟨fun _ _ hne => hne.symm⟩

theorem StepRow.not_disjoint_of_matches {a b : StepRow} {w : BitVec 8} (ha : a.matches w = true)
    (hb : b.matches w = true) : ¬ a.Disjoint b := by
  rw [StepRow.matches_iff] at ha hb
  refine not_not_intro ?_
  calc a.pattern &&& b.mask = (w &&& a.mask) &&& b.mask := by rw [ha]
    _ = (w &&& b.mask) &&& a.mask := by ac_rfl
    _ = b.pattern &&& a.mask := by rw [hb]

theorem stepRows_pairwise_disjoint : stepRows.Pairwise StepRow.Disjoint := by
  unfold stepRows StepRow.Disjoint
  decide

/-- A word matches at most one row (spec/30_encoding.md R63). -/
theorem stepRow_eq_of_matches {a b : StepRow} {w : BitVec 8} (ha : a ∈ stepRows) (hb : b ∈ stepRows)
    (hwa : a.matches w = true) (hwb : b.matches w = true) : a = b := by
  have := StepRow.disjoint_symm
  by_contra hne
  exact StepRow.not_disjoint_of_matches hwa hwb (stepRows_pairwise_disjoint.forall ha hb hne)

/-- A word decodes to the operation of whichever row it matches: the order of the rows does not matter. -/
theorem decodeStep_of_row {r : StepRow} {w : BitVec 8} (hr : r ∈ stepRows) (hw : w &&& r.mask = r.pattern) :
    decodeStep w = .ok (r.make w) := by
  rw [← StepRow.matches_iff] at hw
  have hfind : stepRows.find? (fun q => q.matches w) = some r := by
    cases h : stepRows.find? (fun q => q.matches w) with
    | none => exact absurd hw (List.find?_eq_none.mp h r hr)
    | some q =>
      have hq : q.matches w = true := List.find?_some (p := fun q : StepRow => q.matches w) h
      rw [stepRow_eq_of_matches hr (List.mem_of_find?_eq_some h) hw hq]
  simp only [decodeStep, hfind]

namespace Machine

/-! ### Every word is a selector -/

/-- The state codes leave no 3-bit word out (spec/30_encoding.md R62). -/
theorem exists_code_eq (k : BitVec 3) : ∃ st : DecoderState, st.code = k := by
  have hcodes : ∀ k : BitVec 3, ∃ st ∈ [DecoderState.idle, .await, .confirm, .data, .stop, .rsvd5, .rsvd6, .rsvd7],
      st.code = k := by decide
  obtain ⟨st, -, hst⟩ := hcodes k
  exact ⟨st, hst⟩

theorem exists_packSel_eq (w : BitVec 8) : ∃ st m h d c l, packSel st m h d c l = w := by
  obtain ⟨st, hst⟩ := exists_code_eq (w.extractLsb' 5 3)
  refine ⟨st, w.getLsbD 4, w.getLsbD 3, w.getLsbD 2, w.getLsbD 1, w.getLsbD 0, ?_⟩
  rw [packSel, hst]
  clear hst
  revert w
  decide

/-- Every SEL word decodes to an operation (spec/30_encoding.md R63). -/
theorem decodeStep_ok (w : BitVec 8) : ∃ i, decodeStep w = .ok i := by
  obtain ⟨st, m, h, d, c, l, rfl⟩ := exists_packSel_eq w
  exact decode_packSel_ok ..

/-! ### The state graph -/

/-- The operation that a selector names leaves from the state the selector was packed with. -/
theorem decode_packSel_mem_transition (st : DecoderState) (m h d c l : Bool) :
    ∃ i, decodeStep (packSel st m h d c l) = .ok i ∧ st ∈ (transition i).1 := by
  cases st with
  | idle => exact ⟨_, decode_packSel_idle .., by cases m <;> cases h <;> decide⟩
  | await => exact ⟨_, decode_packSel_await .., by cases m <;> cases h <;> decide⟩
  | confirm => exact ⟨_, decode_packSel_confirm .., by cases d <;> cases c <;> decide⟩
  | data => exact ⟨_, decode_packSel_data .., by cases d <;> cases l <;> exact List.mem_cons_self⟩
  | stop => exact ⟨_, decode_packSel_stop .., by cases d <;> cases c <;> decide⟩
  | rsvd5 => exact ⟨_, decode_packSel_rsvd5 .., by decide⟩
  | rsvd6 => exact ⟨_, decode_packSel_rsvd6 .., by decide⟩
  | rsvd7 => exact ⟨_, decode_packSel_rsvd7 .., by decide⟩

theorem st_mem_transition_of_selected {s : State} {i : Instr} (hi : decodeStep (sel s) = .ok i) :
    s.st ∈ (transition i).1 := by
  obtain ⟨j, hj, hmem⟩ := decode_packSel_mem_transition s.st (matchBit s) (thresholdBit s) (dueBit s) s.cur (lastBit s)
  obtain rfl : j = i := Except.ok.inj (hj.symm.trans hi)
  exact hmem

/-- An operation writes `st` as the state graph says, and in no other way (spec/30_encoding.md R66). -/
theorem exec_st {i : Instr} {s t : State} (h : exec i s = .next t) : t.st = (transition i).2.getD s.st := by
  cases i
  case bootCfg =>
    injection h with h
    subst h
    split
    · exact advanceBoot_st s
    · exact refuseConfig_st s
  all_goals
    injection h with h
    subst h
    simp [transition]

/-! ### The obligations -/

/-- Settles O38: what the operation writes, and the state whose selector names it, are read off the same table. -/
theorem stateFollowsTransitionTable : Obligations.StateFollowsTransitionTable :=
  fun _ _ _ hexec => ⟨exec_st hexec, st_mem_transition_of_selected⟩

/-- Settles O2: the statement about all rows, written out for each row of the table. -/
theorem stepMapDecodesEveryWord : Obligations.StepMapDecodesEveryWord := by
  intro w
  have hrows : ∀ r ∈ stepRows, w &&& r.mask = r.pattern → decodeStep w = .ok (r.make w) :=
    fun _ hr hw => decodeStep_of_row hr hw
  simpa [stepRows, selC, decodeStep_ok w] using hrows

end Machine

end Sys2Proof
end

section
/-! PROOFS of the family 42_frame_alignment: what the nine operations leave alone and do not read
(spec/42_frame_alignment.md R109). One lemma bounds what they write, from which every frame fact follows; one says that they
carry other values of memory and of the four registers through. -/

namespace Sys2Proof.Machine

open Sys2Proof

/-- The operations of spec/42_frame_alignment.md, R100 to R108. -/
def frameAlignmentOps : List Instr :=
  [.idleClr, .idleCnt, .idleArm, .awaitAge, .awaitCnt, .awaitEdge, .confWait, .confOk, .confFalse]

/-- `s` with other values in memory and in the four registers that the nine operations do not read (R109). -/
def withUnread (m : Memory) (b : Byte) (k : BitVec 4) (x : Half) (l : Tick) (s : State) : State :=
  { s with mem := m, dataByte := b, bitIndex := k, bitMask := x, lastByteTick := l }

/-- The nine operations write `st`, the debounce counters and `startTick`; only AWAIT.AGE writes the countdown, only CONF.OK
the data-bit registers, and nothing else changes (R100 to R108). -/
theorem frameAlignment_writes {i : Instr} {s t : State} (hi : i ∈ frameAlignmentOps) (h : exec i s = .next t) :
    t = { s with
      st := t.st, idleCnt := t.idleCnt, lowCnt := t.lowCnt, startTick := t.startTick,
      linkCountdown := if i = .awaitAge then t.linkCountdown else s.linkCountdown,
      dataByte := if i = .confOk then 0 else s.dataByte,
      bitIndex := if i = .confOk then 1 else s.bitIndex,
      bitMask := if i = .confOk then 1 else s.bitMask } := by
  unfold frameAlignmentOps at hi
  fin_cases hi
  all_goals
    injection h with h
    subst h
    rfl

/-- With other values in memory and in the four registers the nine operations answer the same state with those values kept,
but CONF.OK overwrites the byte, the index and the mask as before. -/
theorem exec_withUnread {i : Instr} {s t : State} (hi : i ∈ frameAlignmentOps) (h : exec i s = .next t)
    (m : Memory) (b : Byte) (k : BitVec 4) (x : Half) (l : Tick) :
    exec i (withUnread m b k x l s) =
      .next (if i = .confOk then { t with mem := m, lastByteTick := l } else withUnread m b k x l t) := by
  unfold frameAlignmentOps at hi
  fin_cases hi
  all_goals
    injection h with h
    subst h
    rfl

/-- Settles O40: the frame is what `frameAlignment_writes` leaves alone, and the independence is `exec_withUnread`, with
CONF.OK apart. -/
theorem frameAlignmentTouchesNoMemory : Obligations.FrameAlignmentTouchesNoMemory := by
  intro i s t hexec hi
  have hwrites := frameAlignment_writes hi hexec
  have hother := exec_withUnread hi hexec
  refine ⟨by rw [hwrites], by rw [hwrites], by rw [hwrites], by rw [hwrites], fun hage => ?_, fun m b k x l => ⟨?_, ?_⟩⟩
  · rw [hwrites]
    exact if_neg hage
  · intro hne
    exact (hother m b k x l).trans (by rw [if_neg hne, withUnread])
  · intro hok
    exact (hother m b k x l).trans (by rw [if_pos hok])

end Sys2Proof.Machine
end

section
/-! PROOFS of the family 43_accumulator: STOP.INVALID (spec/43_accumulator.md R125), and one entry per frame (R128). What
`PUSH` does is said once, as `pushesEntry`; an iteration drives the beats of one `PUSH` exactly when the operation it selects
is one of the two that leave ReadingStop. -/

namespace Sys2Proof.Machine

open Sys2Proof

/-! ### An entry pushed into a legal ring -/

/-- `PUSH` into a slot of a legal ring does what spec/44_ring_write.md R142 says. -/
theorem push_pushesEntry (v p : Half) {s : State} (h : s.cfg.isLegal = true) (ht : s.tail.toNat < s.cfg.ringN) :
    pushesEntry v p s (push v p s) := by
  obtain ⟨hmin, hmax⟩ := legal_ringN h
  obtain ⟨-, -, t1, t2⟩ := ring_addresses h
  obtain ⟨v1, v2, p1, p2⟩ := slot_addresses h ht
  obtain ⟨hvalue, hpayload⟩ := push_read_entry v p s h ht
  refine ⟨incmod_toNat s.tail (by omega) hmax, hvalue, hpayload, push_read_tail v p s, fun a hv hp htl => ?_,
    push_events v p s⟩
  exact push_read_ne v p s (by omega) (by omega) (by omega) (by omega) (by omega) (by omega)

/-! ### The selector in ReadingStop -/

theorem sel_stop {s : State} (hst : s.st = .stop) : sel s = packSel .stop false false (dueBit s) s.cur false := by
  rw [sel, matchBit, thresholdBit, lastBit, hst]
  rfl

theorem dueBit_stop {s : State} {o : Nat} (hst : s.st = .stop) (ho : s.cfg.offsets[9]? = some o)
    (hdue : (s.now - s.startTick).toNat ≥ o) : dueBit s = true := by
  have hentry : dueIndex s = some 9 := by rw [dueIndex, hst]
  rw [dueBit_of_entry hentry ho]
  exact decide_eq_true hdue

/-! ### An iteration, seen from outside -/

@[simp] theorem iterationStart_cfg (s : State) : (iterationStart s).cfg = s.cfg := rfl
@[simp] theorem iterationStart_st (s : State) : (iterationStart s).st = s.st := rfl
@[simp] theorem iterationStart_tail (s : State) : (iterationStart s).tail = s.tail := rfl
@[simp] theorem iterationStart_events (s : State) : (iterationStart s).events = s.events := rfl
@[simp] theorem iterationStart_shut (s : State) : (iterationStart s).shut = (nextInput s).shutdown := rfl

@[simp] theorem finished_st (s : State) : (finished s).st = s.st := by
  unfold finished
  split <;> rfl

@[simp] theorem finished_tail (s : State) : (finished s).tail = s.tail := by
  unfold finished
  split <;> rfl

/-- The end of an iteration emits COMPLETE exactly when the stop request was read (spec/41_bit_sampler.md R90). -/
theorem finished_events (s : State) : (finished s).events = s.events ++ (if s.shut then [.complete] else []) := by
  unfold finished
  split
  · rfl
  · exact (List.append_nil _).symm

/-- A step in RUN without reset is an iteration: it selects an operation, executes it, and ends. -/
theorem run_step_cases {s t : State} (hrun : s.phase = .run) (hreset : (nextInput s).reset = false)
    (h : step s = .next t) :
    ∃ i u, decodeStep (sel (iterationStart s)) = .ok i ∧ exec i (iterationStart s) = .next u ∧ t = finished u := by
  rcases step_cases h with ⟨hr, -⟩ | ⟨-, hboot, -⟩ | ⟨-, -, hiter⟩ | ⟨-, hphase, -⟩
  · simp [hr] at hreset
  · simp [hrun] at hboot
  · exact hiter
  · simp [hrun] at hphase

/-! ### The operations that push -/

/-- The operations of an iteration that execute `PUSH` (spec/43_accumulator.md R124, R125). -/
def pushingOps : List Instr := [.stopInvalid, .stopValid]

/-- A pushing operation drives the three beats of one `PUSH` and leaves its tail. -/
theorem exec_pushing {i : Instr} {s t : State} (hi : i ∈ pushingOps) (h : exec i s = .next t) :
    ∃ v p, t.tail = (push v p s).tail ∧ t.events = s.events ++ pushBeats v p s := by
  have hcases : i = .stopInvalid ∨ i = .stopValid := by simpa [pushingOps] using hi
  rcases hcases with rfl | rfl
  · injection h with h
    subst h
    exact ⟨0, payload s, rfl, push_events_pushBeats ..⟩
  · injection h with h
    subst h
    refine ⟨interval s, payload s, countValidByte_tail _, ?_⟩
    exact (countValidByte_events _).trans (push_events_pushBeats ..)

/-- Every other operation of the STEP format drives no beat and leaves the tail. -/
theorem exec_not_pushing {i : Instr} {s t : State} (hf : i.format = .step) (hi : i ∉ pushingOps)
    (h : exec i s = .next t) : t.tail = s.tail ∧ t.events = s.events := by
  cases i
  case stopInvalid => exact absurd List.mem_cons_self hi
  case stopValid => exact absurd (by decide) hi
  case haltCont | haltStop | bootCfg | bootHead | bootTail | bootDiag0 | bootDiag1 | bootDiag2 | bootRun => cases hf
  all_goals
    injection h with h
    subst h
    exact ⟨rfl, rfl⟩

/-- Only an operation of the STEP format leaves from a state. -/
theorem format_of_mem_transition {i : Instr} {st : DecoderState} (h : st ∈ (transition i).1) : i.format = .step := by
  cases i
  case haltCont | haltStop | bootCfg | bootHead | bootTail | bootDiag0 | bootDiag1 | bootDiag2 | bootRun => cases h
  all_goals rfl

/-- In the state graph the edges from ReadingStop to AwaitingStart are those of the pushing operations
(spec/30_encoding.md R66). -/
theorem mem_pushingOps_iff {i : Instr} {st : DecoderState} (h : st ∈ (transition i).1) :
    i ∈ pushingOps ↔ st = .stop ∧ (transition i).2.getD st = .await := by
  cases i <;> simp_all [transition, pushingOps]

/-! ### The obligations -/

/-- Settles O11: in ReadingStop a due sample that reads low packs the word 0x84, and the operation is `PUSH` of the sentinel
entry but for `st`. -/
theorem stopInvalidPushesSentinel : Obligations.StopInvalidPushesSentinel := by
  intro s hlegal htail
  refine ⟨fun o hst ho hdue hcur => ?_, { push 0 (payload s) s with st := .await }, rfl,
    push_pushesEntry 0 (payload s) hlegal htail, rfl⟩
  have hsel : sel s = 0x84 := by
    rw [sel_stop hst, dueBit_stop hst ho hdue, hcur]
    rfl
  rw [selectsBy, hsel]
  exact ⟨rfl, rfl⟩

/-- Settles O41: the step goes from ReadingStop to AwaitingStart exactly when the operation it selects is a pushing one, and
the end of the iteration adds COMPLETE alone. -/
theorem oneEntryPerFrame : Obligations.OneEntryPerFrame := by
  intro s t hrun hreset hstep
  obtain ⟨i, u, hsel, hexec, rfl⟩ := run_step_cases hrun hreset hstep
  have hmem := st_mem_transition_of_selected hsel
  have hpushes : i ∈ pushingOps ↔ s.st = .stop ∧ (finished u).st = .await := by
    rw [mem_pushingOps_iff hmem, finished_st, exec_st hexec, iterationStart_st]
  obtain ⟨-, -, -, hshut, -⟩ := exec_keeps_surroundings hexec
  rw [iterationStart_shut] at hshut
  rw [finished_events, finished_tail, hshut]
  split
  next hleaves =>
    obtain ⟨v, p, htail, hevents⟩ := exec_pushing (hpushes.mpr hleaves) hexec
    refine ⟨v, p, ?_⟩
    rw [hevents, htail, pushBeats, iterationStart_cfg, iterationStart_tail, iterationStart_events]
  next hstays =>
    obtain ⟨htail, hevents⟩ := exec_not_pushing (format_of_mem_transition hmem) (mt hpushes.mp hstays) hexec
    exact ⟨htail.trans (iterationStart_tail s), by rw [hevents, iterationStart_events]⟩

end Sys2Proof.Machine
end

section
/-! PROOFS of the family 44_ring_write: `PUSH` (spec/44_ring_write.md R142) and the interval (R143). What `PUSH` writes is
`push_pushesEntry`; the interval is read off one lemma for each of the three operations it is composed of. -/

namespace Sys2Proof.Machine

open Sys2Proof

/-! ### The operations of the interval -/

/-- `sub32` is the difference of the integers modulo 2^32, whichever tick is the later (spec/44_ring_write.md R143 (a)). -/
theorem sub32_toNat (a b : Tick) : ((sub32 a b).toNat : ℤ) = ((a.toNat : ℤ) - b.toNat) % 2 ^ 32 := by
  rw [sub32, BitVec.toNat_sub]
  omega

/-- By a divisor of at least 1, `udiv` is the floor of the quotient (spec/44_ring_write.md R143 (b)). -/
theorem udiv_of_pos (a : Tick) {b : Nat} (hb : 1 ≤ b) : udiv a b = a.toNat / b :=
  if_neg (Nat.ne_of_gt hb)

/-- `trunc_16` keeps the low 16 bits (spec/44_ring_write.md R143 (c)). -/
theorem trunc16_toNat (n : Nat) : (trunc16 n).toNat = n % 2 ^ 16 := BitVec.toNat_ofNat n 16

/-! ### The frame of `PUSH` -/

/-- `PUSH` writes no register but the tail (spec/44_ring_write.md R142). -/
theorem push_writes (v p : Half) (s : State) :
    push v p s = { s with tail := (push v p s).tail, mem := (push v p s).mem, events := (push v p s).events } := rfl

/-! ### The obligations -/

/-- Settles O19: the entry, the tail and the beats are those of `push_pushesEntry`, which asks nothing of the head. -/
theorem pushWritesEntryThenTail : Obligations.PushWritesEntryThenTail :=
  fun s v p hlegal htail => ⟨push_pushesEntry v p hlegal htail, push_writes v p s⟩

/-- Settles O23: the difference, the quotient and the low 16 bits are taken in turn, and each is its integer counterpart. -/
theorem intervalArithmetic : Obligations.IntervalArithmetic := by
  intro s hscale
  have hnat : (interval s).toNat = (sub32 s.now s.lastByteTick).toNat / s.cfg.intervalScale % 2 ^ 16 := by
    rw [interval, trunc16_toNat, udiv_of_pos _ hscale]
  calc ((interval s).toNat : ℤ)
      = ((sub32 s.now s.lastByteTick).toNat : ℤ) / s.cfg.intervalScale % 2 ^ 16 := by exact_mod_cast hnat
    _ = (((s.now.toNat : ℤ) - s.lastByteTick.toNat) % 2 ^ 32) / s.cfg.intervalScale % 2 ^ 16 := by rw [sub32_toNat]

end Sys2Proof.Machine
end

section
/-! PROOFS of the family 45_link_indicator: the countdown (spec/45_link_indicator.md R151, R152), the indicator (R153), and
that the cosmetic registers influence nothing (R150). The last is a property of a part of a step, `CosmeticBlind`, that
composes: it is shown of each operation and carried through the iteration and the step to any number of steps. -/

namespace Sys2Proof.Machine

open Sys2Proof

/-! ### The countdown -/

theorem exec_awaitAge_linkCountdown {s t : State} (h : exec .awaitAge s = .next t) :
    t.linkCountdown = satdec s.linkCountdown := by
  injection h with h
  subst h
  rfl

theorem exec_stopValid_linkCountdown {s t : State} (h : exec .stopValid s = .next t) :
    t.linkCountdown = sentinelCount s.cfg := by
  injection h with h
  subst h
  exact countValidByte_linkCountdown _

theorem exec_linkCountdown_of_ne {i : Instr} {s t : State} (hage : i ≠ .awaitAge) (hvalid : i ≠ .stopValid)
    (h : exec i s = .next t) : t.linkCountdown = s.linkCountdown := by
  cases i
  case awaitAge => exact absurd rfl hage
  case stopValid => exact absurd rfl hvalid
  case bootCfg =>
    injection h with h
    subst h
    split
    · exact advanceBoot_linkCountdown s
    · exact refuseConfig_linkCountdown s
  all_goals
    injection h with h
    subst h
    rfl

theorem sentinelCount_toNat {c : Config} (h : c.linkSentinel < 2 ^ 32) : (sentinelCount c).toNat = c.linkSentinel := by
  rw [sentinelCount, BitVec.toNat_ofNat, Nat.mod_eq_of_lt h]

/-! ### The indicator -/

/-- Division by `p` after one more: the remainder goes up until it would reach `p`, and then the quotient does. -/
theorem succ_div_mod {p : Nat} (n : Nat) (hp : 1 ≤ p) :
    if n % p + 1 = p then (n + 1) / p = n / p + 1 ∧ (n + 1) % p = 0
    else (n + 1) / p = n / p ∧ (n + 1) % p = n % p + 1 := by
  have hlt : n % p < p := Nat.mod_lt n hp
  have hn : n % p + p * (n / p) = n := Nat.mod_add_div n p
  split
  next hfull =>
    refine (Nat.div_mod_unique hp).mpr ⟨?_, hp⟩
    rw [Nat.mul_add_one]
    omega
  next => exact (Nat.div_mod_unique hp).mpr ⟨by omega, by omega⟩

/-- `n` valid bytes have been counted since the indicator stood at `level` with a cleared counter
(spec/45_link_indicator.md R153). -/
def CountedFrom (level : Bool) (n : Nat) (s : State) : Prop :=
  s.byteCounter.toNat = n % s.cfg.indicatorPeriod ∧
  s.indicator = (level ^^ (n / s.cfg.indicatorPeriod % 2 == 1))

/-- One more quotient is one more toggle. -/
theorem toggles_succ (level : Bool) (q : Nat) : (level ^^ ((q + 1) % 2 == 1)) = !(level ^^ (q % 2 == 1)) := by
  rcases Nat.mod_two_eq_zero_or_one q with hq | hq <;> cases level <;> simp [Nat.add_mod, hq]

theorem countValidByte_countedFrom {level : Bool} {n : Nat} {s : State} (hpos : 1 ≤ s.cfg.indicatorPeriod)
    (hmax : s.cfg.indicatorPeriod ≤ 256) (h : CountedFrom level n s) : CountedFrom level (n + 1) (countValidByte s) := by
  obtain ⟨hcounter, hindicator⟩ := h
  have hnext := succ_div_mod n hpos
  have hlt := Nat.mod_lt n hpos
  rw [CountedFrom, countValidByte_cfg, countValidByte_byteCounter, countValidByte_indicator, hcounter]
  split at hnext
  next hfull =>
    obtain ⟨hdiv, hmod⟩ := hnext
    rw [if_pos hfull, if_pos hfull, hdiv, hmod, hindicator, toggles_succ]
    exact ⟨rfl, rfl⟩
  next hmore =>
    obtain ⟨hdiv, hmod⟩ := hnext
    rw [if_neg hmore, if_neg hmore, hdiv, hmod]
    refine ⟨?_, hindicator⟩
    rw [BitVec.toNat_add, hcounter]
    have hfits : n % s.cfg.indicatorPeriod + 1 < 256 := by omega
    exact Nat.mod_eq_of_lt hfits

theorem iterate_countValidByte_cfg (s : State) (n : Nat) : (countValidByte^[n] s).cfg = s.cfg := by
  induction n with
  | zero => rfl
  | succ n ih => rw [Function.iterate_succ_apply', countValidByte_cfg, ih]

theorem iterate_countValidByte_countedFrom {s : State} (n : Nat) (hpos : 1 ≤ s.cfg.indicatorPeriod)
    (hmax : s.cfg.indicatorPeriod ≤ 256) (hclear : s.byteCounter = 0) :
    CountedFrom s.indicator n (countValidByte^[n] s) := by
  induction n with
  | zero => simp [CountedFrom, hclear]
  | succ n ih =>
    rw [Function.iterate_succ_apply']
    exact countValidByte_countedFrom (by rwa [iterate_countValidByte_cfg]) (by rwa [iterate_countValidByte_cfg]) ih

/-! ### States that differ only in the cosmetic registers -/

/-- `s` with other values in the three cosmetic registers (spec/10_state.md R17). -/
def withCosmetic (countdown : BitVec 32) (counter : BitVec 8) (level : Bool) (s : State) : State :=
  { s with linkCountdown := countdown, byteCounter := counter, indicator := level }

theorem sameButCosmetic_iff {s t : State} : sameButCosmetic s t ↔ ∃ x y z, t = withCosmetic x y z s := by
  constructor
  · exact fun h => ⟨t.linkCountdown, t.byteCounter, t.indicator, h⟩
  · rintro ⟨x, y, z, rfl⟩
    rfl

section
variable {s t : State} (h : sameButCosmetic s t)
include h

theorem sameButCosmetic.cfg_eq : t.cfg = s.cfg := by rw [h]

theorem sameButCosmetic.phase_eq : t.phase = s.phase := by rw [h]

theorem sameButCosmetic.bseq_eq : t.bseq = s.bseq := by rw [h]

theorem sameButCosmetic.shut_eq : t.shut = s.shut := by rw [h]

theorem sameButCosmetic.nextInput_eq : nextInput t = nextInput s := by
  rw [h]
  rfl

/-- No selector field depends on the cosmetic registers (spec/30_encoding.md R61). -/
theorem sameButCosmetic.sel_eq : sel t = sel s := by
  rw [h]
  rfl

theorem sameButCosmetic.takeInput : sameButCosmetic (takeInput s) (takeInput t) := by
  obtain ⟨x, y, z, rfl⟩ := sameButCosmetic_iff.mp h
  rfl

theorem sameButCosmetic.agentsWrite (ws : List AgentWrite) :
    sameButCosmetic (agentsWrite ws s) (agentsWrite ws t) := by
  obtain ⟨x, y, z, rfl⟩ := sameButCosmetic_iff.mp h
  rfl

theorem sameButCosmetic.latchPorts (i : Input) : sameButCosmetic (latchPorts i s) (latchPorts i t) := by
  obtain ⟨x, y, z, rfl⟩ := sameButCosmetic_iff.mp h
  rfl

theorem sameButCosmetic.commitPrev : sameButCosmetic (commitPrev s) (commitPrev t) := by
  obtain ⟨x, y, z, rfl⟩ := sameButCosmetic_iff.mp h
  rfl

theorem sameButCosmetic.emitComplete : sameButCosmetic (emitComplete s) (emitComplete t) := by
  obtain ⟨x, y, z, rfl⟩ := sameButCosmetic_iff.mp h
  rfl

/-- The HALT check does not depend on the cosmetic registers (spec/45_link_indicator.md R150). -/
theorem sameButCosmetic.finished : sameButCosmetic (finished s) (finished t) := by
  rw [Machine.finished, Machine.finished, h.shut_eq]
  split
  · exact h.commitPrev.emitComplete
  · exact h.commitPrev

/-- After a reset nothing of the old cosmetic registers is left. -/
theorem sameButCosmetic.resetInput_eq : resetInput t = resetInput s := by
  rw [h]
  rfl

theorem sameButCosmetic.moveTo (d : DecoderState) : sameButCosmetic { s with st := d } { t with st := d } := by
  obtain ⟨x, y, z, rfl⟩ := sameButCosmetic_iff.mp h
  rfl

/-- Whether or not the counter is full in the one state or in the other, only the counter and the indicator change. -/
theorem sameButCosmetic.countValidByte : sameButCosmetic (countValidByte s) (countValidByte t) := by
  obtain ⟨x, y, z, rfl⟩ := sameButCosmetic_iff.mp h
  rw [Machine.countValidByte, Machine.countValidByte]
  split <;> split <;> rfl

end

/-! ### Parts of a step that the cosmetic registers do not influence -/

/-- From states that differ only in the cosmetic registers, `f` goes on to states that differ only in them. -/
def CosmeticBlind (f : State → Result) : Prop :=
  ∀ s t s', sameButCosmetic s t → f s = .next s' → ∃ t', f t = .next t' ∧ sameButCosmetic s' t'

theorem cosmeticBlind_of_update {f : State → State} (hf : ∀ s t, sameButCosmetic s t → sameButCosmetic (f s) (f t)) :
    CosmeticBlind (fun s => .next (f s)) := by
  intro s t s' hst h
  injection h with h
  subst h
  exact ⟨f t, rfl, hf s t hst⟩

theorem andThen_eq_next_iff {r : Result} {f : State → Result} {t : State} :
    andThen r f = .next t ↔ ∃ u, r = .next u ∧ f u = .next t := by
  cases r <;> simp [andThen]

theorem CosmeticBlind.andThen {f g : State → Result} (hf : CosmeticBlind f) (hg : CosmeticBlind g) :
    CosmeticBlind (fun s => andThen (f s) g) := by
  intro s t s' hst h
  obtain ⟨u, hu, hs'⟩ := andThen_eq_next_iff.mp h
  obtain ⟨v, hv, huv⟩ := hf s t u hst hu
  obtain ⟨t', ht', hst'⟩ := hg u v s' huv hs'
  exact ⟨t', andThen_eq_next_iff.mpr ⟨v, hv, ht'⟩, hst'⟩

/-- No operation passes a cosmetic register on, the arguments of `PUSH` in STOP.VALID included
(spec/45_link_indicator.md R150). -/
theorem cosmeticBlind_exec (i : Instr) : CosmeticBlind (exec i) := by
  cases i
  case stopValid =>
    refine cosmeticBlind_of_update fun s t hst => ?_
    refine sameButCosmetic.moveTo (sameButCosmetic.countValidByte ?_) .await
    obtain ⟨x, y, z, rfl⟩ := sameButCosmetic_iff.mp hst
    rfl
  case bootCfg =>
    refine cosmeticBlind_of_update fun s t hst => ?_
    rw [hst.cfg_eq]
    obtain ⟨x, y, z, rfl⟩ := sameButCosmetic_iff.mp hst
    split
    · rfl
    · rfl
  all_goals
    refine cosmeticBlind_of_update fun s t hst => ?_
    obtain ⟨x, y, z, rfl⟩ := sameButCosmetic_iff.mp hst
    rfl

theorem cosmeticBlind_execSelected (w : Selector) : CosmeticBlind (execSelected w) := by
  unfold execSelected
  cases decode w with
  | ok i => exact cosmeticBlind_exec i
  | error e => exact fun _ _ _ _ h => by cases h

theorem cosmeticBlind_finishIteration : CosmeticBlind finishIteration := by
  rw [funext finishIteration_eq]
  exact cosmeticBlind_of_update fun _ _ hst => hst.finished

theorem cosmeticBlind_iterate : CosmeticBlind iterate := by
  intro s t s' hst h
  rw [iterate, hst.sel_eq]
  exact (cosmeticBlind_execSelected _).andThen cosmeticBlind_finishIteration s t s' hst h

theorem cosmeticBlind_blockStep (i : Input) : CosmeticBlind (blockStep i) := by
  intro s t s' hst h
  rw [blockStep, hst.phase_eq, hst.bseq_eq]
  rw [blockStep] at h
  cases hphase : s.phase with
  | boot =>
    rw [hphase] at h
    exact cosmeticBlind_execSelected _ s t s' hst h
  | run =>
    rw [hphase] at h
    exact cosmeticBlind_iterate _ _ s' (hst.latchPorts i) h
  | halted | cfgFault =>
    rw [hphase] at h
    injection h with h
    exact ⟨t, rfl, h ▸ hst⟩

theorem cosmeticBlind_step : CosmeticBlind step := by
  intro s t s' hst h
  rw [step, stepUnder, hst.nextInput_eq]
  rw [step, stepUnder] at h
  split at h
  next hreset =>
    rw [if_pos hreset, hst.takeInput.resetInput_eq]
    injection h with h
    exact ⟨_, rfl, h ▸ rfl⟩
  next hreset =>
    rw [if_neg hreset]
    exact cosmeticBlind_blockStep _ _ _ s' (hst.takeInput.agentsWrite _) h

/-! ### The obligations -/

/-- Settles O50: a step is `CosmeticBlind`, and so is any number of steps, one after another. -/
theorem cosmeticRegistersDoNotInfluenceTheBlock : Obligations.CosmeticRegistersDoNotInfluenceTheBlock := by
  intro k
  change CosmeticBlind (runSteps k)
  induction k with
  | zero => exact cosmeticBlind_of_update fun _ _ hst => hst
  | succ k ih => exact cosmeticBlind_step.andThen ih

/-- Settles O25: `CountedFrom` holds of the cleared counter before any byte, and counting one more byte carries it on. -/
theorem indicatorTogglesEveryPeriod : Obligations.IndicatorTogglesEveryPeriod := by
  intro s n hpos hmax hclear
  have hcounted := iterate_countValidByte_countedFrom n hpos hmax hclear
  rwa [CountedFrom, iterate_countValidByte_cfg] at hcounted

/-- Settles O39: one lemma for each of the two operations that write the countdown, and one for all the others. -/
theorem countdownMovesOnlyByAgeAndValid : Obligations.CountdownMovesOnlyByAgeAndValid := by
  intro i s t hexec
  refine ⟨?_, ?_, fun hage hvalid => exec_linkCountdown_of_ne hage hvalid hexec⟩
  · rintro rfl
    rw [exec_awaitAge_linkCountdown hexec, satdec_toNat]
  · rintro rfl hsentinel
    rw [exec_stopValid_linkCountdown hexec, sentinelCount_toNat hsentinel]

end Sys2Proof.Machine
end

section
/-! PROOFS of the family 46_shutdown: the HALT operations (spec/46_shutdown.md R161, R162), and the halt within the iteration
that reads the stop request (R160, R164). Every iteration selects an operation and no operation stops short, so an iteration
always reaches its end; there the request, which no operation changes, selects HALT.STOP. -/

namespace Sys2Proof.Machine

open Sys2Proof

/-! ### The HALT operations -/

theorem exec_haltCont (s : State) : exec .haltCont s = .next s := rfl

theorem exec_haltStop (s : State) : exec .haltStop s = .next (emitComplete s) := rfl

/-! ### The end of an iteration is reached -/

/-- Every operation answers a next state, whatever state it executes in (spec/60_exceptions.md R170). -/
theorem exec_answersNext (i : Instr) (s : State) : answersNext (exec i s) := by
  cases i
  all_goals exact ⟨_, rfl⟩

/-- The operation that an iteration selects, and what it leaves. -/
theorem exists_selected_exec (s : State) : ∃ i u, decodeStep (sel s) = .ok i ∧ exec i s = .next u := by
  obtain ⟨i, hsel⟩ := decode_sel_ok s
  obtain ⟨u, hexec⟩ := exec_answersNext i s
  exact ⟨i, u, hsel, hexec⟩

@[simp] theorem iterationStart_cur (s : State) : (iterationStart s).cur = (nextInput s).line := rfl

/-- With the request read, an iteration ends by refreshing `prev` and then executing HALT.STOP
(spec/46_shutdown.md R160). -/
theorem finished_of_shut {s : State} (hshut : s.shut = true) : finished s = emitComplete (commitPrev s) := if_pos hshut

/-! ### The obligations -/

/-- Settles O14: the two operations, and the HALT selector for each value of the request. -/
theorem haltOperationsEffect : Obligations.HaltOperationsEffect :=
  fun s => ⟨exec_haltCont s, exec_haltStop s, decodeHalt_ofBool false, decodeHalt_ofBool true⟩

/-- Settles O37: an operation is selected and answers `u`, which still holds the request and the line level that the
iteration read, so the step ends in HALT.STOP from `u` with that level as `prev`. -/
theorem shutdownHaltsWithinTheIteration : Obligations.ShutdownHaltsWithinTheIteration := by
  intro s hrun hreset hrequest
  obtain ⟨i, u, hsel, hexec⟩ := exists_selected_exec (iterationStart s)
  obtain ⟨-, -, hcur, hshut, -⟩ := exec_keeps_surroundings hexec
  rw [iterationStart_cur] at hcur
  rw [iterationStart_shut, hrequest] at hshut
  have hstep : step s = .next (emitComplete (commitPrev u)) := by
    rw [step_of_selected hrun hreset hsel hexec, finished_of_shut hshut]
  refine ⟨i, u, _, hexec, hsel, hstep, ?_⟩
  rw [emitComplete, commitPrev, hcur]

end Sys2Proof.Machine
end

section
/-! PROOFS of the family 60_exceptions: no operation of the block raises a synchronous exception (spec/60_exceptions.md
R170). -/

namespace Sys2Proof.Machine

open Sys2Proof

/-- Settles O27: `exec_answersNext`, the case analysis over the operations, is this statement for one operation and one
state. The state is arbitrary, so an illegal configuration, whose scale or capacity may be 0, is included. -/
theorem everyOperationAnswersNext : Obligations.EveryOperationAnswersNext := by
  intro i s
  exact exec_answersNext i s

end Sys2Proof.Machine
end

section
/-! PROOFS of the family 70_reset_and_hazards: the start-up sequence from reset (spec/70_reset_and_hazards.md R193, R194). A
state in which it stands is `starting`, whose memory is the replay of the beats driven so far; each step is one operation
from one such state to the next. What the beats leave in memory is read off the words of the ring region. -/

namespace Sys2Proof.Machine

open Sys2Proof

/-! ### The words of the ring region -/

/-- Word `i` of the ring region: `head`, `tail`, then value and payload of each slot (spec/20_memory.md R40, R42). -/
def wordAddr (c : Config) (i : Nat) : Addr := toAddr (c.ringBase + 2 * i)

theorem headAddr_eq_wordAddr (c : Config) : headAddr c = wordAddr c 0 := rfl

theorem tailAddr_eq_wordAddr (c : Config) : tailAddr c = wordAddr c 1 := rfl

theorem valueAddr_eq_wordAddr (c : Config) (k : Half) : valueAddr c k = wordAddr c (2 + 2 * k.toNat) := by
  rw [valueAddr, wordAddr]
  congr 1
  omega

theorem payloadAddr_eq_wordAddr (c : Config) (k : Half) : payloadAddr c k = wordAddr c (3 + 2 * k.toNat) := by
  rw [payloadAddr, wordAddr]
  congr 1
  omega

section
variable {c : Config} (h : c.isLegal = true)
include h

theorem wordAddr_toNat {i : Nat} (hi : i < 2 + 2 * c.ringN) :
    (wordAddr c i).toNat = c.ringBase + 2 * i ∧ (nextAddr (wordAddr c i)).toNat = c.ringBase + 2 * i + 1 := by
  obtain ⟨-, hend⟩ := legal_region h
  have hword : (wordAddr c i).toNat = c.ringBase + 2 * i := toAddr_toNat (by omega)
  exact ⟨hword, by rw [nextAddr_toNat (by omega), hword]⟩

/-- Of the words of the ring region, a write changes the one it is to. -/
theorem read16_write16_wordAddr (m : Memory) (v : Half) {i j : Nat} (hi : i < 2 + 2 * c.ringN)
    (hj : j < 2 + 2 * c.ringN) :
    Memory.read16 (Memory.write16 m (wordAddr c i) v) (wordAddr c j) =
      if i = j then some v else Memory.read16 m (wordAddr c j) := by
  obtain ⟨i0, i1⟩ := wordAddr_toNat h hi
  obtain ⟨j0, j1⟩ := wordAddr_toNat h hj
  split
  next heq => rw [heq, read16_write16_same]
  next hne => exact read16_write16_ne m v (addr_ne (by omega)) (addr_ne (by omega)) (addr_ne (by omega))

/-- A write to a word of the ring region leaves every byte outside the word. -/
theorem read_write16_wordAddr_ne (m : Memory) (v : Half) {i a : Nat} (hi : i < 2 + 2 * c.ringN)
    (ha : a < c.ringBase + 2 * i ∨ c.ringBase + 2 * i + 2 ≤ a) :
    Memory.read (Memory.write16 m (wordAddr c i) v) a = Memory.read m a := by
  obtain ⟨i0, i1⟩ := wordAddr_toNat h hi
  exact read_write16_ne m v (by omega) (by omega)

end

/-! ### The beats of the start-up sequence -/

theorem replay_append (es fs : List Event) (m : Memory) : replay (es ++ fs) m = replay fs (replay es m) :=
  List.foldl_append

/-- The beats that put the entry `e` into slot `k` and publish it as the newest (spec/20_memory.md R46). -/
def entryBeats (c : Config) (k : Half) (e : RingEntry) : List Event :=
  [.ringWrite (valueAddr c k) e.value, .ringWrite (payloadAddr c k) e.payload, .ringWrite (tailAddr c) (k + 1)]

/-- Every beat of the start-up sequence, in order (spec/70_reset_and_hazards.md R193). -/
def startUpBeats (c : Config) : List Event :=
  [.ringWrite (headAddr c) 0, .ringWrite (tailAddr c) 0] ++
    entryBeats c 0 c.diag0 ++ entryBeats c 1 c.diag1 ++ entryBeats c 2 c.diag2

/-- Memory after the start-up sequence holds the header and the three entries (spec/70_reset_and_hazards.md R194). -/
theorem read16_startUpBeats {c : Config} (h : c.isLegal = true) :
    let m := replay (startUpBeats c) []
    Memory.read16 m (headAddr c) = some 0 ∧ Memory.read16 m (tailAddr c) = some 3 ∧
    Memory.read16 m (valueAddr c 0) = some c.diag0.value ∧ Memory.read16 m (payloadAddr c 0) = some c.diag0.payload ∧
    Memory.read16 m (valueAddr c 1) = some c.diag1.value ∧ Memory.read16 m (payloadAddr c 1) = some c.diag1.payload ∧
    Memory.read16 m (valueAddr c 2) = some c.diag2.value ∧ Memory.read16 m (payloadAddr c 2) = some c.diag2.payload := by
  obtain ⟨hmin, -⟩ := legal_ringN h
  simp (disch := omega) [startUpBeats, entryBeats, headAddr_eq_wordAddr, tailAddr_eq_wordAddr, valueAddr_eq_wordAddr,
    payloadAddr_eq_wordAddr, read16_write16_wordAddr h]

/-- The start-up sequence writes nothing but the header and the three entries. -/
theorem read_startUpBeats_ne {c : Config} (h : c.isLegal = true) {a : Nat}
    (ha : a < c.ringBase ∨ c.ringBase + 16 ≤ a) : Memory.read (replay (startUpBeats c) []) a = none := by
  obtain ⟨hmin, -⟩ := legal_ringN h
  simp (disch := omega) [startUpBeats, entryBeats, headAddr_eq_wordAddr, tailAddr_eq_wordAddr, valueAddr_eq_wordAddr,
    payloadAddr_eq_wordAddr, read_write16_wordAddr_ne h, read_nil]

/-! ### The states of the start-up sequence -/

/-- Below the last index, the index step is a plain increment. -/
theorem incmod_eq_add_one {n : Nat} {v : Half} (hv : v.toNat + 1 < n) (hn : n ≤ 65536) : incmod v n = v + 1 := by
  refine BitVec.eq_of_toNat_eq ?_
  rw [incmod_toNat v (by omega) hn, Nat.mod_eq_of_lt hv]
  bv_omega

@[simp] theorem resetWith_cfg (c : Config) : (State.resetWith c).cfg = c := rfl

/-- The start-up sequence at index `k`, after the beats `es`: every other register holds its reset value. -/
def starting (c : Config) (k : BitVec 3) (tail : Half) (es : List Event) (is : List Input) (n : Nat) : State :=
  { State.resetWith c with bseq := k, tail := tail, mem := replay es [], events := es, inputs := is, inputIdx := n }

section
variable {c : Config} {k : BitVec 3} {t : Half} {es : List Event} {is : List Input} {n : Nat}

theorem memWrite16_starting (a : Addr) (v : Half) :
    memWrite16 a v (starting c k t es is n) = starting c k t (es ++ [.ringWrite a v]) is n := by
  simp [memWrite16, starting, replay_append]

theorem exec_bootCfg_starting (h : c.isLegal = true) :
    exec .bootCfg (starting c k t es is n) = .next (starting c (k + 1) t es is n) :=
  congrArg Host.Outcome.next (if_pos h)

theorem exec_bootHead_starting :
    exec .bootHead (starting c k t es is n) =
      .next (starting c (k + 1) t (es ++ [.ringWrite (headAddr c) 0]) is n) :=
  congrArg (fun s => Host.Outcome.next (advanceBoot s)) (memWrite16_starting (headAddr c) 0)

theorem exec_bootTail_starting :
    exec .bootTail (starting c k t es is n) =
      .next (starting c (k + 1) 0 (es ++ [.ringWrite (tailAddr c) 0]) is n) :=
  congrArg (fun s => Host.Outcome.next (advanceBoot s)) (memWrite16_starting (tailAddr c) 0)

theorem pushDiag_starting (e : RingEntry) (h : c.isLegal = true) (ht : t.toNat + 1 < c.ringN) :
    pushDiag e (starting c k t es is n) = starting c (k + 1) (t + 1) (es ++ entryBeats c t e) is n := by
  obtain ⟨-, hmax⟩ := legal_ringN h
  rw [pushDiag, push_writes]
  simp [advanceBoot, starting, replay_append, entryBeats, incmod_eq_add_one ht hmax]

/-- An operation that pushes one of the three diagnostic entries drives its beats and moves the tail
(spec/70_reset_and_hazards.md R199). -/
theorem exec_starting_of_pushDiag {op : Instr} (e : RingEntry) (h : c.isLegal = true) (ht : t.toNat < 3)
    (hop : exec op (starting c k t es is n) = .next (pushDiag e (starting c k t es is n))) :
    exec op (starting c k t es is n) = .next (starting c (k + 1) (t + 1) (es ++ entryBeats c t e) is n) := by
  obtain ⟨hmin, -⟩ := legal_ringN h
  rw [hop, pushDiag_starting e h (by omega)]

theorem exec_bootRun_starting :
    exec .bootRun (starting c k t es is n) =
      .next { State.resetWith c with phase := .run, bseq := k, tail := t, mem := replay es [], events := es,
                                     inputs := is, inputIdx := n } := rfl

end

/-! ### Running the start-up sequence -/

/-- In phase BOOT a step without reset or foreign writes executes the operation that the index selects
(spec/30_encoding.md R65). -/
theorem step_of_boot {s : State} {op : Instr} (hboot : s.phase = .boot) (hreset : (nextInput s).reset = false)
    (hwrites : (nextInput s).agentWrites = []) (hop : decodeBoot s.bseq = .ok op) :
    step s = exec op (takeInput s) := by
  have hblock : step s = blockStep (nextInput s) (takeInput s) := by
    rw [step, stepUnder, if_neg (by simp [hreset]), hwrites]
    rfl
  rw [hblock, blockStep, takeInput_phase, hboot]
  simp only [execSelected, decode, takeInput_bseq, hop]

/-- A run that goes on with the start-up sequence takes the operation of its index first. -/
theorem runSteps_starting {c : Config} {k : BitVec 3} {t : Half} {es : List Event} {i : Input} {is : List Input}
    {n m : Nat} {op : Instr} {u : State} (hi : i.reset = false ∧ i.agentWrites = []) (hop : decodeBoot k = .ok op)
    (hexec : exec op (starting c k t es is (n + 1)) = .next u) :
    runSteps (m + 1) (starting c k t es (i :: is) n) = runSteps m u := by
  obtain ⟨hreset, hwrites⟩ := hi
  have hstep : step (starting c k t es (i :: is) n) = .next u := by
    rw [← hexec]
    exact step_of_boot rfl hreset hwrites hop
  rw [runSteps, hstep, andThen]

/-- The seven operations of the start-up sequence, one after another (spec/70_reset_and_hazards.md R193). -/
theorem runSteps_startUp {c : Config} (h : c.isLegal = true) {is rest : List Input} (hlen : is.length = 7)
    (hquiet : ∀ i ∈ is, i.reset = false ∧ i.agentWrites = []) :
    runSteps 7 (starting c 0 0 [] (is ++ rest) 0) =
      .next { State.resetWith c with phase := .run, bseq := 6, tail := 3, mem := replay (startUpBeats c) [],
                                     events := startUpBeats c, inputs := rest, inputIdx := 7 } := by
  match is, hlen with
  | [i0, i1, i2, i3, i4, i5, i6], _ =>
    simp only [List.forall_mem_cons] at hquiet
    obtain ⟨h0, h1, h2, h3, h4, h5, h6, -⟩ := hquiet
    calc runSteps 7 (starting c 0 0 [] (i0 :: i1 :: i2 :: i3 :: i4 :: i5 :: i6 :: rest) 0)
        = runSteps 6 _ := runSteps_starting h0 rfl (exec_bootCfg_starting h)
      _ = runSteps 5 _ := runSteps_starting h1 rfl exec_bootHead_starting
      _ = runSteps 4 _ := runSteps_starting h2 rfl exec_bootTail_starting
      _ = runSteps 3 _ := runSteps_starting h3 rfl (exec_starting_of_pushDiag c.diag0 h (by decide) rfl)
      _ = runSteps 2 _ := runSteps_starting h4 rfl (exec_starting_of_pushDiag c.diag1 h (by decide) rfl)
      _ = runSteps 1 _ := runSteps_starting h5 rfl (exec_starting_of_pushDiag c.diag2 h (by decide) rfl)
      _ = runSteps 0 _ := runSteps_starting h6 rfl exec_bootRun_starting

/-! ### The obligation -/

/-- Settles O34: seven operations lead from one `starting` state to the next and then to RUN, and memory is the replay of
their beats. -/
theorem startUpSequence : Obligations.StartUpSequence := by
  intro c is rest hlegal hlen hquiet
  obtain ⟨hhead, htail, hvalue0, hpayload0, hvalue1, hpayload1, hvalue2, hpayload2⟩ := read16_startUpBeats hlegal
  refine ⟨_, runSteps_startUp hlegal hlen hquiet, ?_⟩
  -- Reduce the projections of the final state first, so that `rfl` does not evaluate the replay.
  dsimp only
  exact ⟨rfl, rfl, hhead, htail, hvalue0, hpayload0, hvalue1, hpayload1, hvalue2, hpayload2,
    fun _ => read_startUpBeats_ne hlegal⟩

end Sys2Proof.Machine
end

section
/-! PROOFS of the family `other`, the selectors (spec/30_encoding.md R61 to R65): which words decode to an operation. In the
STEP format the rows of the map say it; in the HALT and BOOT formats the mask is the whole word, so a word that agrees with an
encoding is that encoding. -/

namespace Sys2Proof

/-! ### Decoding what was encoded -/

theorem decode_encode (i : Instr) : decode (encode i) = .ok i := by
  cases i
  case dataBit c | dataLast c => cases c <;> rfl
  all_goals rfl

theorem encode_format (i : Instr) : (encode i).format = i.format := by
  cases i <;> rfl

/-- A selector has an operation's format and agrees with its encoding on its mask and operand bits. -/
def Selector.Agrees (w : Selector) (i : Instr) : Prop :=
  w.format = i.format ∧ w.word &&& (i.mask ||| i.operandMask) = (encode i).word

/-! ### The STEP format -/

/-- A word decodes to an operation exactly when it matches a row that makes it. -/
theorem decodeStep_eq_ok_iff {w : BitVec 8} {i : Instr} :
    decodeStep w = .ok i ↔ ∃ r ∈ stepRows, w &&& r.mask = r.pattern ∧ r.make w = i := by
  constructor
  · intro h
    unfold decodeStep at h
    split at h
    next r hfind =>
      have hmatch : r.matches w = true := List.find?_some (p := fun q : StepRow => q.matches w) hfind
      exact ⟨r, List.mem_of_find?_eq_some hfind, (r.matches_iff w).mp hmatch, Except.ok.inj h⟩
    next => cases h
  · rintro ⟨r, hr, hw, rfl⟩
    exact decodeStep_of_row hr hw

theorem and_eq_iff_toNat (w m e : BitVec 8) : w &&& m = e ↔ w.toNat &&& m.toNat = e.toNat := by
  rw [← BitVec.toNat_and, BitVec.toNat_inj]

theorem agrees_dataBit_iff (w : BitVec 8) (c : Bool) :
    (Selector.step w).Agrees (.dataBit c) ↔ w &&& 0xE5 = 0x64 ∧ selC w = c := by
  unfold Selector.Agrees
  revert w c
  decide

theorem agrees_dataLast_iff (w : BitVec 8) (c : Bool) :
    (Selector.step w).Agrees (.dataLast c) ↔ w &&& 0xE5 = 0x65 ∧ selC w = c := by
  unfold Selector.Agrees
  revert w c
  decide

/-- A word agrees with an operation that a row makes exactly when it matches the row and gives it the same operand. -/
theorem agrees_make_iff {r : StepRow} (hr : r ∈ stepRows) (v w : BitVec 8) :
    (Selector.step w).Agrees (r.make v) ↔ w &&& r.mask = r.pattern ∧ r.make w = r.make v := by
  unfold stepRows at hr
  fin_cases hr
  -- The rows of DATA.BIT and DATA.LAST, the two with an operand, come tenth and eleventh, counted from 0.
  pick_goal 11
  · simpa using agrees_dataBit_iff w (selC v)
  pick_goal 11
  · simpa using agrees_dataLast_iff w (selC v)
  all_goals
    simp [Selector.Agrees, Selector.format, Instr.format, Selector.word, encode, Instr.mask, Instr.operandMask,
      and_eq_iff_toNat]

/-- Every operation of the STEP format is made by a row. -/
theorem exists_row_make {i : Instr} (hi : i.format = .step) : ∃ r ∈ stepRows, ∃ v, r.make v = i := by
  have hformat := encode_format i
  have hdecode := decode_encode i
  cases hw : encode i with
  | step v =>
    rw [hw] at hdecode
    obtain ⟨r, hr, -, hmake⟩ := decodeStep_eq_ok_iff.mp hdecode
    exact ⟨r, hr, v, hmake⟩
  | halt _ | boot _ =>
    rw [hw, hi] at hformat
    cases hformat

theorem decode_step_iff_agrees (w : BitVec 8) (i : Instr) : decode (.step w) = .ok i ↔ (Selector.step w).Agrees i := by
  rw [decode, decodeStep_eq_ok_iff]
  constructor
  · rintro ⟨r, hr, hw, rfl⟩
    exact (agrees_make_iff hr w w).mpr ⟨hw, rfl⟩
  · intro h
    obtain ⟨hformat, -⟩ := id h
    obtain ⟨r, hr, v, rfl⟩ := exists_row_make hformat.symm
    exact ⟨r, hr, (agrees_make_iff hr v w).mp h⟩

/-! ### The HALT and BOOT formats -/

theorem halt_agrees_iff (w : BitVec 1) (i : Instr) : (Selector.halt w).Agrees i ↔ .halt w = encode i := by
  cases i
  case haltCont | haltStop =>
    unfold Selector.Agrees
    revert w
    decide
  all_goals simp [Selector.Agrees, Selector.format, Instr.format, encode]

theorem boot_agrees_iff (w : BitVec 3) (i : Instr) : (Selector.boot w).Agrees i ↔ .boot w = encode i := by
  cases i
  case bootCfg | bootHead | bootTail | bootDiag0 | bootDiag1 | bootDiag2 | bootRun =>
    unfold Selector.Agrees
    revert w
    decide
  all_goals simp [Selector.Agrees, Selector.format, Instr.format, encode]

/-- In the HALT format an operation is decoded from its encoding alone. -/
theorem decode_halt_iff (w : BitVec 1) (i : Instr) : decode (.halt w) = .ok i ↔ .halt w = encode i := by
  refine ⟨fun h => ?_, fun h => h ▸ decode_encode i⟩
  have hwords : ∀ w : BitVec 1, w = 0 ∨ w = 1 := by decide
  rcases hwords w with rfl | rfl
  all_goals
    obtain rfl := Except.ok.inj h
    rfl

theorem decode_boot_seven : decode (.boot 7) = .error .reservedBootIndex := rfl

/-- In the BOOT format an operation is decoded from its encoding alone. -/
theorem decode_boot_iff (w : BitVec 3) (i : Instr) : decode (.boot w) = .ok i ↔ .boot w = encode i := by
  refine ⟨fun h => ?_, fun h => h ▸ decode_encode i⟩
  have hwords : ∀ w : BitVec 3, w = 0 ∨ w = 1 ∨ w = 2 ∨ w = 3 ∨ w = 4 ∨ w = 5 ∨ w = 6 ∨ w = 7 := by decide
  rcases hwords w with rfl | rfl | rfl | rfl | rfl | rfl | rfl | rfl
  case inr.inr.inr.inr.inr.inr.inr =>
    rw [decode_boot_seven] at h
    cases h
  all_goals
    obtain rfl := Except.ok.inj h
    rfl

/-! ### The obligations -/

/-- Settles O4: a word decodes exactly to the operation it agrees with, by the rows in the STEP format and by the encodings
in the other two. -/
theorem decodeExactlyOnAgreeingWords : Obligations.DecodeExactlyOnAgreeingWords := by
  intro w i
  change decode w = .ok i ↔ w.Agrees i
  cases w with
  | step w => exact decode_step_iff_agrees w i
  | halt w => rw [decode_halt_iff, halt_agrees_iff]
  | boot w => rw [decode_boot_iff, boot_agrees_iff]

/-- Settles O3: `decode_encode`, for operations that are all well-formed. -/
theorem decodeOfEncodeIsTheOperation : Obligations.DecodeOfEncodeIsTheOperation :=
  fun i _ => decode_encode i

/-- Settles O1: each sample is one evaluation of the decoder. -/
theorem sampleSelectorWordsDecode : Obligations.SampleSelectorWordsDecode := by
  unfold Obligations.SampleSelectorWordsDecode
  decide

end Sys2Proof
end

section
/-! PROOFS of the family `other`, the step: what it is in each phase, that only the reserved start-up index stops it, the reset
(spec/70_reset_and_hazards.md R190), and the phases in which the block has no step (spec/10_state.md R12). -/

namespace Sys2Proof.Machine

open Sys2Proof

/-! ### A step, phase by phase -/

section
variable {i : Input} {s : State}

theorem stepUnder_of_reset (hreset : i.reset = true) : stepUnder i s = .next (resetInput s) := if_pos hreset

theorem stepUnder_of_boot (hreset : i.reset = false) (hboot : s.phase = .boot) :
    stepUnder i s = execSelected (.boot s.bseq) (agentsWrite i.agentWrites s) := by
  rw [stepUnder, if_neg (by simp [hreset]), blockStep, agentsWrite_phase, hboot, agentsWrite_bseq]

theorem stepUnder_of_run (hreset : i.reset = false) (hrun : s.phase = .run) :
    stepUnder i s = iterate (latchPorts i (agentsWrite i.agentWrites s)) := by
  rw [stepUnder, if_neg (by simp [hreset]), blockStep, agentsWrite_phase, hrun]

theorem stepUnder_of_stopped (hreset : i.reset = false) (hstopped : s.phase = .halted ∨ s.phase = .cfgFault) :
    stepUnder i s = .next (agentsWrite i.agentWrites s) := by
  rw [stepUnder, if_neg (by simp [hreset]), blockStep, agentsWrite_phase]
  rcases hstopped with h | h <;> rw [h]

theorem execSelected_of_decode {w : Selector} {op : Instr} (hop : decode w = .ok op) : execSelected w s = exec op s := by
  rw [execSelected, hop]

theorem iterate_of_selected {op : Instr} {u : State} (hop : decodeStep (sel s) = .ok op) (hexec : exec op s = .next u) :
    iterate s = .next (finished u) := by
  rw [iterate, execSelected_of_decode (w := .step (sel s)) hop, hexec, andThen, finishIteration_eq]

end

@[simp] theorem finished_cfg (s : State) : (finished s).cfg = s.cfg := by
  unfold finished
  split <;> rfl

/-- The words of the start-up index but the reserved one select an operation (spec/30_encoding.md R65). -/
theorem decodeBoot_ok {k : BitVec 3} (hk : k ≠ 7) : ∃ op, decodeBoot k = .ok op := by
  have hwords : ∀ k : BitVec 3, k ≠ 7 → k = 0 ∨ k = 1 ∨ k = 2 ∨ k = 3 ∨ k = 4 ∨ k = 5 ∨ k = 6 := by decide
  rcases hwords k hk with rfl | rfl | rfl | rfl | rfl | rfl | rfl
  all_goals exact ⟨_, rfl⟩

theorem iterate_answersNext (s : State) : answersNext (iterate s) := by
  obtain ⟨op, u, hop, hexec⟩ := exists_selected_exec s
  exact ⟨_, iterate_of_selected hop hexec⟩

/-- Under any input, a step that is not refused answers a next state. -/
theorem stepUnder_answersNext {i : Input} {s : State} (h : i.reset = false → s.phase = .boot → s.bseq ≠ 7) :
    answersNext (stepUnder i s) := by
  cases hreset : i.reset with
  | true => exact ⟨_, stepUnder_of_reset hreset⟩
  | false =>
    cases hphase : s.phase with
    | boot =>
      obtain ⟨op, hop⟩ := decodeBoot_ok (h hreset hphase)
      rw [stepUnder_of_boot hreset hphase, execSelected_of_decode (w := .boot s.bseq) hop]
      exact exec_answersNext op _
    | run =>
      rw [stepUnder_of_run hreset hphase]
      exact iterate_answersNext _
    | halted => exact ⟨_, stepUnder_of_stopped hreset (.inl hphase)⟩
    | cfgFault => exact ⟨_, stepUnder_of_stopped hreset (.inr hphase)⟩

/-! ### The start-up step and the reset -/

theorem step_of_reserved {s : State} (hreset : (nextInput s).reset = false) (hboot : s.phase = .boot) (hseven : s.bseq = 7) :
    step s = .refused (.reservedSelector .reservedBootIndex) := by
  rw [step, stepUnder_of_boot (s := takeInput s) hreset hboot, takeInput_bseq, hseven]
  rfl

theorem step_of_decodeBoot {s : State} {op : Instr} (hreset : (nextInput s).reset = false) (hboot : s.phase = .boot)
    (hop : decodeBoot s.bseq = .ok op) : step s = exec op (agentsWrite (nextInput s).agentWrites (takeInput s)) := by
  rw [step, stepUnder_of_boot (s := takeInput s) hreset hboot]
  exact execSelected_of_decode (w := .boot s.bseq) hop

/-- Settles O29: the start-up operation is the one its index decodes to, and index 7 decodes to none. -/
theorem bootStepRunsTheIndexedOperation : Obligations.BootStepRunsTheIndexedOperation := by
  intro s hboot hreset
  exact ⟨fun _ hop => step_of_decodeBoot hreset hboot hop, step_of_reserved hreset hboot⟩

/-- Settles O30: `stepUnder_answersNext`, and the reserved index. -/
theorem stepStopsOnlyOnTheReservedIndex : Obligations.StepStopsOnlyOnTheReservedIndex := by
  intro s
  refine ⟨fun h => ?_, step_of_reserved⟩
  exact stepUnder_answersNext fun hreset hboot hseven => h ⟨hreset, hboot, hseven⟩

/-- Settles O28: the reads are those of `iterationStart`, and the end of the iteration refreshes `prev` from the line level it
read and halts on the request it read, which no operation changes. -/
theorem runStepIsOneIteration : Obligations.RunStepIsOneIteration := by
  intro s op hrun hreset
  refine ⟨rfl, fun hop => ?_⟩
  obtain ⟨t, hexec⟩ := exec_answersNext op (iterationStart s)
  obtain ⟨-, -, hcur, hshut, -⟩ := exec_keeps_surroundings hexec
  rw [iterationStart_cur] at hcur
  rw [iterationStart_shut] at hshut
  refine ⟨t, hexec, ?_⟩
  rw [step_of_selected hrun hreset hop hexec, finished, emitComplete, commitPrev, hshut, hcur]

/-- Settles O31: under the reset input a step is `resetInput` of the state with the input taken. -/
theorem resetInputRestoresResetState : Obligations.ResetInputRestoresResetState :=
  fun _ hreset => stepUnder_of_reset hreset

/-- Settles O32: every register is read off the reset state, and its memory lists nothing. -/
theorem resetRegisterValues : Obligations.ResetRegisterValues := by
  intro c
  exact ⟨rfl, rfl, rfl, rfl, rfl, rfl, rfl, rfl, rfl, rfl, rfl, rfl, rfl, rfl, rfl, rfl, rfl, read_nil, rfl⟩

/-! ### Any number of steps -/

/-- No step writes the configuration, the reset input included (spec/10_state.md R16). -/
theorem step_cfg {s t : State} (h : step s = .next t) : t.cfg = s.cfg := by
  rcases step_cases h with ⟨-, rfl⟩ | ⟨-, -, op, -, hexec⟩ | ⟨-, -, op, u, -, hexec, rfl⟩ | ⟨-, -, rfl⟩
  · rfl
  · exact (exec_keeps_surroundings hexec).1
  · obtain ⟨hcfg, -⟩ := exec_keeps_surroundings hexec
    rw [finished_cfg, hcfg, iterationStart_cfg]
  · rfl

/-- Settles O42: `step_cfg`, by induction on the number of steps. -/
theorem configurationNeverChanges : Obligations.ConfigurationNeverChanges := by
  intro k
  induction k with
  | zero =>
    intro s t h
    injection h with h
    rw [h]
  | succ k ih =>
    intro s t h
    obtain ⟨u, hu, ht⟩ := andThen_eq_next_iff.mp h
    rw [ih u t ht, step_cfg hu]

/-- Settles O36: in these phases a step is the other agents' writes and the taking of the input, by induction on the
inputs. -/
theorem noStepAfterTheHalt : Obligations.NoStepAfterTheHalt := by
  intro s is rest
  induction is generalizing s with
  | nil =>
    rintro - hinputs -
    rw [List.nil_append] at hinputs
    subst hinputs
    rfl
  | cons i is ih =>
    intro hstopped hinputs hquiet
    obtain ⟨hi, his⟩ := List.forall_mem_cons.mp hquiet
    have hnext : nextInput s = i := by rw [nextInput, hinputs]; rfl
    have hstep : step s = .next (agentsWrite i.agentWrites (takeInput s)) := by
      rw [step, hnext]
      exact stepUnder_of_stopped hi hstopped
    have htail : (takeInput s).inputs = is ++ rest := by rw [takeInput_inputs, hinputs]; rfl
    rw [List.length_cons, runSteps, hstep, andThen,
      ih (agentsWrite i.agentWrites (takeInput s)) hstopped htail his]
    rw [Nat.add_comm is.length, ← Nat.add_assoc]
    rfl

theorem foldl_agentWrites_nil {is : List Input} (m : Memory) (h : ∀ i ∈ is, i.agentWrites = []) :
    is.foldl (fun m i => i.agentWrites.foldl (fun m a => Memory.write16 m a.addr a.data) m) m = m := by
  induction is with
  | nil => rfl
  | cons i is ih =>
    obtain ⟨hi, his⟩ := List.forall_mem_cons.mp h
    rw [List.foldl_cons, hi, List.foldl_nil, ih his]

/-- BOOT.CFG refuses an illegal configuration in the first step after reset (spec/60_exceptions.md R171). -/
theorem step_of_illegal {c : Config} {i : Input} {is : List Input} (hillegal : c.isLegal = false) (hreset : i.reset = false)
    (hwrites : i.agentWrites = []) :
    step { State.resetWith c with inputs := i :: is } =
      .next { State.resetWith c with phase := .cfgFault, inputs := is, inputIdx := 1 } := by
  have hstep := step_of_boot (s := { State.resetWith c with inputs := i :: is }) (op := .bootCfg) rfl hreset hwrites rfl
  rw [hstep]
  exact congrArg Host.Outcome.next (if_neg (by simp [hillegal]))

/-- Settles O35: the first step is `step_of_illegal`, and every later one is a step in CFG_FAULT, where nothing but the
other agents' writes, of which there are none, changes the state. -/
theorem illegalConfigNeverRuns : Obligations.IllegalConfigNeverRuns := by
  intro c is hillegal hne hquiet
  match is with
  | i :: is =>
    obtain ⟨⟨hreset, hwrites⟩, his⟩ := List.forall_mem_cons.mp hquiet
    rw [List.length_cons, runSteps, step_of_illegal hillegal hreset hwrites, andThen]
    rw [noStepAfterTheHalt _ is [] (.inr rfl) (List.append_nil is).symm fun j hj => (his j hj).1]
    rw [foldl_agentWrites_nil _ fun j hj => (his j hj).2, Nat.add_comm]

end Sys2Proof.Machine
end

section
/-! PROOFS of the family `other`, what a step drives: the beats of an operation are a function of the operation and the state
(`beats`), and memory changes by them alone (spec/20_memory.md R44, R45). -/

namespace Sys2Proof.Machine

open Sys2Proof

/-! ### The beats of an operation -/

/-- What an operation drives on the outputs, in order (spec/20_memory.md R44, spec/46_shutdown.md R162). -/
def beats (op : Instr) (s : State) : List Event :=
  match op with
  | .stopInvalid => pushBeats 0 (payload s) s
  | .stopValid => pushBeats (interval s) (payload s) s
  | .haltStop => [.complete]
  | .bootHead => [.ringWrite (headAddr s.cfg) 0]
  | .bootTail => [.ringWrite (tailAddr s.cfg) 0]
  | .bootDiag0 => pushBeats s.cfg.diag0.value s.cfg.diag0.payload s
  | .bootDiag1 => pushBeats s.cfg.diag1.value s.cfg.diag1.payload s
  | .bootDiag2 => pushBeats s.cfg.diag2.value s.cfg.diag2.payload s
  | _ => []

/-- From `s` to `t` the events `new` were driven, and memory changed by them alone. -/
def Drives (new : List Event) (s t : State) : Prop := t.events = s.events ++ new ∧ t.mem = replay new s.mem

theorem drives_nil {s t : State} (hevents : t.events = s.events) (hmem : t.mem = s.mem) : Drives [] s t :=
  ⟨by rw [hevents, List.append_nil], hmem⟩

theorem drives_append {es fs : List Event} {s t u : State} (h : Drives es s t) (h' : Drives fs t u) :
    Drives (es ++ fs) s u := by
  obtain ⟨hevents, hmem⟩ := h
  obtain ⟨hevents', hmem'⟩ := h'
  exact ⟨by rw [hevents', hevents, List.append_assoc], by rw [hmem', hmem, replay_append]⟩

theorem push_drives (v p : Half) (s : State) : Drives (pushBeats v p s) s (push v p s) :=
  ⟨push_events_pushBeats v p s, (replay_pushBeats v p s).symm⟩

theorem pushDiag_drives (e : RingEntry) (s : State) : Drives (pushBeats e.value e.payload s) s (pushDiag e s) :=
  push_drives e.value e.payload s

theorem exec_drives {op : Instr} {s t : State} (h : exec op s = .next t) : Drives (beats op s) s t := by
  cases op
  case stopInvalid =>
    injection h with h
    subst h
    exact push_drives 0 (payload s) s
  case bootDiag0 | bootDiag1 | bootDiag2 =>
    injection h with h
    subst h
    exact pushDiag_drives _ s
  case stopValid =>
    injection h with h
    subst h
    obtain ⟨hevents, hmem⟩ := push_drives (interval s) (payload s) s
    exact ⟨(countValidByte_events _).trans hevents, (countValidByte_mem _).trans hmem⟩
  case haltStop | bootHead | bootTail =>
    injection h with h
    subst h
    exact ⟨rfl, rfl⟩
  case bootCfg =>
    injection h with h
    subst h
    split
    · exact drives_nil rfl rfl
    · exact drives_nil rfl rfl
  all_goals
    injection h with h
    subst h
    exact drives_nil rfl rfl

theorem finished_drives (s : State) : Drives (if s.shut then [.complete] else []) s (finished s) := by
  refine ⟨finished_events s, ?_⟩
  unfold finished
  split <;> rfl

/-! ### The beats of a step -/

/-- What an operation drives depends neither on memory nor on the inputs to come. -/
theorem beats_agentsWrite_takeInput (op : Instr) (ws : List AgentWrite) (s : State) :
    beats op (agentsWrite ws (takeInput s)) = beats op s := by
  cases op
  case stopInvalid | stopValid | bootDiag0 | bootDiag1 | bootDiag2 => simp [beats, pushBeats, interval, payload]
  all_goals rfl

/-- In a step without reset, after the other agents' writes the block drives nothing, or the beats of a start-up operation,
or those of the operation its iteration selects and of the HALT check. -/
theorem step_drives {s t : State} (h : step s = .next t) (hreset : (nextInput s).reset = false) :
    ∃ new, Drives new (agentsWrite (nextInput s).agentWrites s) t ∧
      (new = [] ∨
      (s.phase = .boot ∧ ∃ op, decodeBoot s.bseq = .ok op ∧ new = beats op s) ∨
      (s.phase = .run ∧ ∃ op, decodeStep (sel (iterationStart s)) = .ok op ∧
        new = beats op (iterationStart s) ++ if (nextInput s).shutdown then [.complete] else [])) := by
  rcases step_cases h with ⟨hr, -⟩ | ⟨-, hboot, op, hop, hexec⟩ | ⟨-, hrun, op, u, hop, hexec, rfl⟩ | ⟨-, -, rfl⟩
  · simp [hr] at hreset
  · have hdrives := exec_drives hexec
    rw [beats_agentsWrite_takeInput] at hdrives
    exact ⟨beats op s, hdrives, .inr (.inl ⟨hboot, op, hop, rfl⟩)⟩
  · obtain ⟨-, -, -, hshut, -⟩ := exec_keeps_surroundings hexec
    have hnew := drives_append (exec_drives hexec) (finished_drives u)
    rw [hshut, iterationStart_shut] at hnew
    exact ⟨_, hnew, .inr (.inr ⟨hrun, op, hop, rfl⟩)⟩
  · exact ⟨[], drives_nil rfl rfl, .inl rfl⟩

/-- A trace of beats keeps the canonical form of memory. -/
theorem replay_wf (es : List Event) (m : Memory) (h : Memory.wf m) : Memory.wf (replay es m) := by
  induction es generalizing m with
  | nil => exact h
  | cons e es ih =>
    cases e with
    | ringWrite a v => exact ih _ (write16_wf m a v h)
    | complete => exact ih _ h

/-- Settles O45: `step_drives`, with the other agents' writes made before the beats. -/
theorem memoryIsTheReplayOfTheWrites : Obligations.MemoryIsTheReplayOfTheWrites := by
  intro s t hstep hreset
  obtain ⟨new, ⟨hevents, hmem⟩, -⟩ := step_drives hstep hreset
  exact ⟨new, hevents, hmem⟩

/-- Settles O46: after the reset input memory lists nothing, and in any other step it is changed by writes alone. -/
theorem stepsKeepMemoryCanonical : Obligations.StepsKeepMemoryCanonical := by
  intro s t hwf hstep
  cases hreset : (nextInput s).reset with
  | true =>
    rw [step, stepUnder_of_reset hreset] at hstep
    injection hstep with hstep
    subst hstep
    exact List.Pairwise.nil
  | false =>
    obtain ⟨new, ⟨-, hmem⟩, -⟩ := step_drives hstep hreset
    rw [hmem]
    exact replay_wf _ _ (agents_wf _ _ hwf)

/-! ### The words a step writes -/

/-- `op` writes no entry outside the ring: the tail is an index of it if `op` executes `PUSH`. -/
def PushesInRing (op : Instr) (s : State) : Prop :=
  op ∈ [Instr.stopInvalid, .stopValid, .bootDiag0, .bootDiag1, .bootDiag2] → s.tail.toNat < s.cfg.ringN

/-- The beats of `PUSH` are to words of the ring region other than `head` (spec/20_memory.md R42). -/
theorem pushBeats_wordAddr {x p : Half} {s : State} {a : Addr} {v : Half} (htail : s.tail.toNat < s.cfg.ringN)
    (h : .ringWrite a v ∈ pushBeats x p s) : ∃ j, j < 2 + 2 * s.cfg.ringN ∧ a = wordAddr s.cfg j ∧ j ≠ 0 := by
  have haddr : a = valueAddr s.cfg s.tail ∨ a = payloadAddr s.cfg s.tail ∨ a = tailAddr s.cfg := by
    simp only [pushBeats, List.mem_cons, Event.ringWrite.injEq, List.not_mem_nil, or_false] at h
    tauto
  rcases haddr with rfl | rfl | rfl
  · exact ⟨_, by omega, valueAddr_eq_wordAddr .., by omega⟩
  · exact ⟨_, by omega, payloadAddr_eq_wordAddr .., by omega⟩
  · exact ⟨1, by omega, tailAddr_eq_wordAddr _, by omega⟩

/-- Every beat of an operation is to a word of the ring region, and to `head` only in BOOT.HEAD. -/
theorem beats_wordAddr {op : Instr} {s : State} {a : Addr} {v : Half} (hpush : PushesInRing op s)
    (h : .ringWrite a v ∈ beats op s) :
    ∃ j, j < 2 + 2 * s.cfg.ringN ∧ a = wordAddr s.cfg j ∧ (j = 0 → op = .bootHead) := by
  have hentry : ∀ {x p}, s.tail.toNat < s.cfg.ringN → .ringWrite a v ∈ pushBeats x p s →
      ∃ j, j < 2 + 2 * s.cfg.ringN ∧ a = wordAddr s.cfg j ∧ (j = 0 → op = .bootHead) := fun htail hmem => by
    obtain ⟨j, hj, ha, hne⟩ := pushBeats_wordAddr htail hmem
    exact ⟨j, hj, ha, fun h0 => absurd h0 hne⟩
  cases op
  case stopInvalid | stopValid | bootDiag0 | bootDiag1 | bootDiag2 => exact hentry (hpush (by decide)) h
  case bootHead =>
    obtain ⟨rfl, -⟩ : a = headAddr s.cfg ∧ v = 0 := by simpa [beats] using h
    exact ⟨0, by omega, headAddr_eq_wordAddr _, fun _ => rfl⟩
  case bootTail =>
    obtain ⟨rfl, -⟩ : a = tailAddr s.cfg ∧ v = 0 := by simpa [beats] using h
    exact ⟨1, by omega, tailAddr_eq_wordAddr _, by omega⟩
  all_goals simp [beats] at h

/-- The index of the start-up sequence is that of its operation (spec/30_encoding.md R65). -/
theorem bseq_of_decodeBoot {k : BitVec 3} {op : Instr} (h : decodeBoot k = .ok op) : .boot k = encode op :=
  (decode_boot_iff k op).mp h

/-- From a state that meets the invariants, the start-up sequence executes `PUSH` with the tail an index of the ring, since
there the tail counts the diagnostic entries. -/
theorem pushesInRing_of_booting {s : State} {op : Instr} (h : Inv s) (hboot : s.phase = .boot)
    (hop : decodeBoot s.bseq = .ok op) (hlegal : s.cfg.isLegal = true) : PushesInRing op s := by
  intro hpushing
  obtain ⟨-, -, -, -, -, -, htail⟩ := h.starting hboot
  obtain ⟨hmin, -⟩ := legal_ringN hlegal
  have hk := bseq_of_decodeBoot hop
  have hindex : s.bseq = 3 ∨ s.bseq = 4 ∨ s.bseq = 5 := by
    fin_cases hpushing <;> simp_all [encode]
  rcases hindex with hk | hk | hk
  all_goals
    rw [hk] at htail
    obtain ⟨htail, -⟩ := htail (by decide)
    rw [htail]
    exact lt_of_lt_of_le (by decide) hmin

/-- From a state that meets the invariants, an iteration executes `PUSH` with the tail an index of the ring, by V6. -/
theorem pushesInRing_of_running {s : State} {op : Instr} (h : Inv s) (hrun : s.phase = .run) :
    PushesInRing op (iterationStart s) := by
  obtain ⟨-, -, -, -, -, ⟨htail, -⟩, -⟩ := h.decoding (.inl hrun)
  exact fun _ => htail

/-! ### What the invariants give -/

/-- A block that runs or is halted has a legal configuration. -/
theorem legal_of_decoding {s : State} (h : configChecked s) (hphase : s.phase = .run ∨ s.phase = .halted) :
    s.cfg.isLegal = true := by
  rcases h with hlegal | ⟨hboot, -⟩ | hfault
  · exact hlegal
  · simp [hboot] at hphase
  · simp [hfault] at hphase

/-- Past BOOT.CFG the start-up sequence has a legal configuration. -/
theorem legal_of_booting {s : State} (h : configChecked s) (hboot : s.phase = .boot) (hk : s.bseq ≠ 0) :
    s.cfg.isLegal = true := by
  rcases h with hlegal | ⟨-, hzero⟩ | hfault
  · exact hlegal
  · exact absurd hzero hk
  · simp [hboot] at hfault

/-- From a state that meets the invariants, in a step without reset every beat is to a word of the ring region of a legal
configuration, and to `head` only in BOOT.HEAD. -/
theorem step_drives_wordAddr {s t : State} (h : Inv s) (hstep : step s = .next t) (hreset : (nextInput s).reset = false) :
    ∃ new, Drives new (agentsWrite (nextInput s).agentWrites s) t ∧ ∀ a v, .ringWrite a v ∈ new →
      s.cfg.isLegal = true ∧
      ∃ j, j < 2 + 2 * s.cfg.ringN ∧ a = wordAddr s.cfg j ∧ (j = 0 → s.phase = .boot ∧ s.bseq = 1) := by
  obtain ⟨new, hdrives, hnew⟩ := step_drives hstep hreset
  refine ⟨new, hdrives, fun a v hmem => ?_⟩
  rcases hnew with rfl | ⟨hboot, op, hop, rfl⟩ | ⟨hrun, op, hop, rfl⟩
  · cases hmem
  · have hk := bseq_of_decodeBoot hop
    have hlegal := legal_of_booting h.checked hboot fun hzero => by
      rw [hzero] at hop
      obtain rfl : .bootCfg = op := Except.ok.inj hop
      cases hmem
    obtain ⟨j, hj, ha, hhead⟩ := beats_wordAddr (pushesInRing_of_booting h hboot hop hlegal) hmem
    refine ⟨hlegal, j, hj, ha, fun h0 => ⟨hboot, ?_⟩⟩
    rw [hhead h0] at hk
    exact Selector.boot.inj hk
  · have hlegal := legal_of_decoding h.checked (.inl hrun)
    have hbeat : .ringWrite a v ∈ beats op (iterationStart s) := by
      rcases List.mem_append.mp hmem with hmem | hmem
      · exact hmem
      · split at hmem <;> simp at hmem
    obtain ⟨j, hj, ha, hhead⟩ := beats_wordAddr (pushesInRing_of_running h hrun) hbeat
    refine ⟨hlegal, j, hj, ha, fun h0 => ?_⟩
    have hformat := format_of_mem_transition (st_mem_transition_of_selected hop)
    rw [hhead h0] at hformat
    cases hformat

/-- Beats to words of a legal ring other than the first leave the head. -/
theorem read16_head_replay {c : Config} (hlegal : c.isLegal = true) (es : List Event) (m : Memory)
    (h : ∀ a v, .ringWrite a v ∈ es → ∃ j, j < 2 + 2 * c.ringN ∧ a = wordAddr c j ∧ j ≠ 0) :
    Memory.read16 (replay es m) (headAddr c) = Memory.read16 m (headAddr c) := by
  refine read16_replay_ne es m fun a v hmem => ?_
  obtain ⟨j, hj, rfl, hne⟩ := h a v hmem
  obtain ⟨h0, h1, -⟩ := ring_addresses hlegal
  obtain ⟨j0, j1⟩ := wordAddr_toNat hlegal hj
  exact ⟨addr_ne (by omega), addr_ne (by omega), addr_ne (by omega)⟩

/-- Settles O44: the words of the ring region of a legal configuration are even and end in the region. -/
theorem writesStayInTheRingRegion : Obligations.WritesStayInTheRingRegion := by
  intro s t hinv hstep hreset
  obtain ⟨new, ⟨hevents, -⟩, hwords⟩ := step_drives_wordAddr hinv hstep hreset
  refine ⟨new, hevents, fun a v hmem => ?_⟩
  obtain ⟨hlegal, j, hj, rfl, -⟩ := hwords a v hmem
  obtain ⟨haligned, -⟩ := legal_region hlegal
  obtain ⟨ha, -⟩ := wordAddr_toNat hlegal hj
  unfold inRing
  omega

/-- Settles O43: memory is changed by the beats alone, and in a step other than BOOT.HEAD none of them is to word 0. -/
theorem headIsWrittenOnceAtStartUp : Obligations.HeadIsWrittenOnceAtStartUp := by
  intro s t hinv hstep hreset hwrites hother hlegal
  obtain ⟨new, ⟨-, hmem⟩, hwords⟩ := step_drives_wordAddr hinv hstep hreset
  rw [hmem, hwrites]
  refine read16_head_replay hlegal new s.mem fun a v hbeat => ?_
  obtain ⟨-, j, hj, ha, hhead⟩ := hwords a v hbeat
  exact ⟨j, hj, ha, fun h0 => hother (hhead h0)⟩

end Sys2Proof.Machine
end

section
/-! PROOFS of the family `other`, selection and effect: what each field of the selector says of the state
(spec/30_encoding.md R61), which row of the map that makes the selector match (R63), and what the selected operation writes. -/

namespace Sys2Proof.Machine

open Sys2Proof

/-! ### The fields of the selector -/

theorem code_packed (k : BitVec 3) (m h d c l : Bool) :
    let w : BitVec 8 :=
      k ++ BitVec.ofBool m ++ BitVec.ofBool h ++ BitVec.ofBool d ++ BitVec.ofBool c ++ BitVec.ofBool l
    w.extractLsb' 5 3 = k ∧ w.getLsbD 4 = m ∧ w.getLsbD 3 = h ∧ w.getLsbD 2 = d ∧ w.getLsbD 1 = c ∧ w.getLsbD 0 = l := by
  revert k m h d c l
  decide

/-- The fields of a selector are what it was packed from (spec/30_encoding.md R61). -/
theorem sel_fields (s : State) :
    (sel s).extractLsb' 5 3 = s.st.code ∧ (sel s).getLsbD 4 = matchBit s ∧ (sel s).getLsbD 3 = thresholdBit s ∧
    (sel s).getLsbD 2 = dueBit s ∧ (sel s).getLsbD 1 = s.cur ∧ (sel s).getLsbD 0 = lastBit s :=
  code_packed s.st.code (matchBit s) (thresholdBit s) (dueBit s) s.cur (lastBit s)

theorem matchBit_iff (s : State) : matchBit s = true ↔
    (s.st = .idle ∧ s.prev = true ∧ s.cur = true) ∨ (s.st = .await ∧ s.prev = false ∧ s.cur = false) := by
  unfold matchBit
  split <;> simp_all [pairHH, pairLL]

theorem thresholdBit_iff (s : State) : thresholdBit s = true ↔
    (s.st = .idle ∧ s.idleCnt.toNat + 1 ≥ s.cfg.idleThreshold) ∨
    (s.st = .await ∧ s.lowCnt.toNat + 1 ≥ s.cfg.startThreshold) := by
  unfold thresholdBit
  split <;> simp_all

/-- The entry that a state compares with (spec/40_timing_scheduler.md R85). -/
theorem dueIndex_iff (s : State) (k : Nat) : dueIndex s = some k ↔
    (s.st = .confirm ∧ k = 0) ∨ (s.st = .data ∧ k = s.bitIndex.toNat) ∨ (s.st = .stop ∧ k = 9) := by
  cases hst : s.st <;> simp [dueIndex, hst, eq_comm]

theorem dueBit_iff (s : State) : dueBit s = true ↔
    ∃ k o, dueIndex s = some k ∧ s.cfg.offsets[k]? = some o ∧ (s.now - s.startTick).toNat ≥ o := by
  cases hk : dueIndex s with
  | none => simp [dueBit, hk]
  | some k =>
    cases ho : s.cfg.offsets[k]? with
    | none => simp [dueBit_of_no_entry hk ho, ho]
    | some o => simp [dueBit_of_entry hk ho, ho]

theorem lastBit_iff (s : State) : lastBit s = true ↔ s.st = .data ∧ s.bitIndex = 8 := by
  simp [lastBit]

/-- Settles O5: `sel_fields`, with one lemma for each predicate. -/
theorem selectorPacksThePredicates : Obligations.SelectorPacksThePredicates := by
  intro s w
  obtain ⟨hcode, hm, hh, hd, hc, hl⟩ := sel_fields s
  have hcodeOf : ∀ {st : DecoderState}, s.st = st → w.extractLsb' 5 3 = st.code := fun hst => hst ▸ hcode
  refine ⟨hcodeOf, hcodeOf, hcodeOf, hcodeOf, hcodeOf, hcodeOf, hcodeOf, hcodeOf, ?_, ?_, ?_, hc, ?_⟩
  · rw [hm, matchBit_iff]
  · rw [hh, thresholdBit_iff]
  · rw [hd, dueBit_iff]
    refine exists_comm.trans (exists_congr fun o => ?_)
    simp only [dueIndex_iff]
    constructor
    · rintro ⟨k, ⟨hst, rfl⟩ | ⟨hst, rfl⟩ | ⟨hst, rfl⟩, ho, hdue⟩
      · exact ⟨.inl ⟨hst, ho⟩, hdue⟩
      · exact ⟨.inr (.inl ⟨hst, ho⟩), hdue⟩
      · exact ⟨.inr (.inr ⟨hst, ho⟩), hdue⟩
    · rintro ⟨⟨hst, ho⟩ | ⟨hst, ho⟩ | ⟨hst, ho⟩, hdue⟩
      · exact ⟨0, .inl ⟨hst, rfl⟩, ho, hdue⟩
      · exact ⟨_, .inr (.inl ⟨hst, rfl⟩), ho, hdue⟩
      · exact ⟨9, .inr (.inr ⟨hst, rfl⟩), ho, hdue⟩
  · rw [hl, lastBit_iff]

/-! ### The operation a selector names, state by state -/

section
variable {s : State}

theorem decode_sel_idle (hst : s.st = .idle) : decodeStep (sel s) = .ok (
    if s.prev = true ∧ s.cur = true then if s.cfg.idleThreshold ≤ s.idleCnt.toNat + 1 then .idleArm else .idleCnt
    else .idleClr) := by
  rw [sel, hst, decode_packSel_idle, matchBit, thresholdBit, hst]
  simp [pairHH]

theorem decode_sel_await (hst : s.st = .await) : decodeStep (sel s) = .ok (
    if s.prev = false ∧ s.cur = false then if s.cfg.startThreshold ≤ s.lowCnt.toNat + 1 then .awaitEdge else .awaitCnt
    else .awaitAge) := by
  rw [sel, hst, decode_packSel_await, matchBit, thresholdBit, hst]
  simp [pairLL]

theorem decode_sel_confirm (hst : s.st = .confirm) : decodeStep (sel s) = .ok (
    if dueBit s then if s.cur then .confFalse else .confOk else .confWait) := by
  rw [sel, hst, decode_packSel_confirm]

theorem decode_sel_data (hst : s.st = .data) : decodeStep (sel s) = .ok (
    if dueBit s then if s.bitIndex = 8 then .dataLast s.cur else .dataBit s.cur else .dataWait) := by
  rw [sel, hst, decode_packSel_data, lastBit, hst]
  simp

theorem decode_sel_stop (hst : s.st = .stop) : decodeStep (sel s) = .ok (
    if dueBit s then if s.cur then .stopValid else .stopInvalid else .stopWait) := by
  rw [sel, hst, decode_packSel_stop]

theorem decode_sel_rsvd5 (hst : s.st = .rsvd5) : decodeStep (sel s) = .ok .rsvdReset5 := by
  rw [sel, hst, decode_packSel_rsvd5]

theorem decode_sel_rsvd67 (hst : s.st = .rsvd6 ∨ s.st = .rsvd7) : decodeStep (sel s) = .ok .rsvdReset67 := by
  rcases hst with hst | hst
  · rw [sel, hst, decode_packSel_rsvd6]
  · rw [sel, hst, decode_packSel_rsvd7]

theorem dueIndex_confirm (hst : s.st = .confirm) : dueIndex s = some 0 := by rw [dueIndex, hst]

theorem dueIndex_data (hst : s.st = .data) : dueIndex s = some s.bitIndex.toNat := by rw [dueIndex, hst]

theorem dueIndex_stop (hst : s.st = .stop) : dueIndex s = some 9 := by rw [dueIndex, hst]

theorem dueBit_of_due {k o : Nat} (hk : dueIndex s = some k) (ho : s.cfg.offsets[k]? = some o)
    (hdue : (s.now - s.startTick).toNat ≥ o) : dueBit s = true := by
  rw [dueBit_of_entry hk ho, decide_eq_true hdue]

theorem dueBit_of_early {k o : Nat} (hk : dueIndex s = some k) (ho : s.cfg.offsets[k]? = some o)
    (hearly : (s.now - s.startTick).toNat < o) : dueBit s = false := by
  rw [dueBit_of_entry hk ho, decide_eq_false (Nat.not_le.mpr hearly)]

theorem or_and_self_nat (m o : Nat) : (m ||| o) &&& m = m := by
  refine Nat.eq_of_testBit_eq fun i => ?_
  rw [Nat.testBit_and, Nat.testBit_or]
  cases m.testBit i <;> simp

/-- The selector that names an operation matches its row: the operation's mask, and the bits of its encoding there. -/
theorem selectsBy_of_decode {op : Instr} {mask pattern : BitVec 8} (h : decodeStep (sel s) = .ok op)
    (hmask : op.mask = mask.toNat) (hpattern : (encode op).word &&& mask.toNat = pattern.toNat) :
    selectsBy s mask pattern op := by
  obtain ⟨-, hword⟩ := (decode_step_iff_agrees (sel s) op).mp h
  refine ⟨(and_eq_iff_toNat ..).mpr ?_, h⟩
  calc (sel s).toNat &&& mask.toNat
      = (sel s).toNat &&& ((op.mask ||| op.operandMask) &&& mask.toNat) := by rw [← hmask, or_and_self_nat]
    _ = (encode op).word &&& mask.toNat := by rw [← hword, Selector.word, Nat.and_assoc]
    _ = pattern.toNat := hpattern

end

/-! ### The obligations -/

/-- Settles O6: the pair and the threshold select, as `decode_sel_idle` says. -/
theorem idleOperationsSelectionAndEffect : Obligations.IdleOperationsSelectionAndEffect := by
  intro s
  refine ⟨fun hst hpair => selectsBy_of_decode ?_ rfl rfl, fun hst hprev hcur hcnt => selectsBy_of_decode ?_ rfl rfl,
    fun hst hprev hcur hcnt => selectsBy_of_decode ?_ rfl rfl, rfl, rfl, rfl⟩
  · rw [decode_sel_idle hst, if_neg hpair]
  · rw [decode_sel_idle hst, if_pos ⟨hprev, hcur⟩, if_neg (Nat.not_le.mpr hcnt)]
  · rw [decode_sel_idle hst, if_pos ⟨hprev, hcur⟩, if_pos hcnt]

/-- Settles O7: the pair and the threshold select, as `decode_sel_await` says; the countdown is `satdec`. -/
theorem awaitOperationsSelectionAndEffect : Obligations.AwaitOperationsSelectionAndEffect := by
  intro s
  refine ⟨fun hst hpair => selectsBy_of_decode ?_ rfl rfl, fun hst hprev hcur hcnt => selectsBy_of_decode ?_ rfl rfl,
    fun hst hprev hcur hcnt => selectsBy_of_decode ?_ rfl rfl, ⟨_, rfl, rfl, satdec_toNat _⟩, rfl, rfl⟩
  · rw [decode_sel_await hst, if_neg hpair]
  · rw [decode_sel_await hst, if_pos ⟨hprev, hcur⟩, if_neg (Nat.not_le.mpr hcnt)]
  · rw [decode_sel_await hst, if_pos ⟨hprev, hcur⟩, if_pos hcnt]

/-- Settles O8: the sample that is due selects by its level, as `decode_sel_confirm` says. -/
theorem confirmOperationsSelectionAndEffect : Obligations.ConfirmOperationsSelectionAndEffect := by
  intro s
  refine ⟨fun o hst ho => ⟨fun hearly => selectsBy_of_decode ?_ rfl rfl, fun hdue hcur => selectsBy_of_decode ?_ rfl rfl,
    fun hdue hcur => selectsBy_of_decode ?_ rfl rfl⟩, rfl, rfl, rfl⟩
  · rw [decode_sel_confirm hst, dueBit_of_early (dueIndex_confirm hst) ho hearly]
    rfl
  · rw [decode_sel_confirm hst, dueBit_of_due (dueIndex_confirm hst) ho hdue, hcur]
    rfl
  · rw [decode_sel_confirm hst, dueBit_of_due (dueIndex_confirm hst) ho hdue, hcur]
    rfl

theorem shl1_toNat (v : Half) : (shl1 v).toNat = 2 * v.toNat % 2 ^ 16 := by
  rw [shl1, BitVec.toNat_shiftLeft, Nat.shiftLeft_eq, Nat.pow_one, Nat.mul_comm]

/-- Settles O9: the sample that is due selects by the index, with the line read as operand, as `decode_sel_data` says. -/
theorem dataOperationsSelectionAndEffect : Obligations.DataOperationsSelectionAndEffect := by
  intro s
  refine ⟨fun o hst ho => ⟨fun hearly => selectsBy_of_decode ?_ rfl rfl,
    fun hdue hindex => selectsBy_of_decode ?_ rfl (by cases s.cur <;> rfl),
    fun hdue hindex => selectsBy_of_decode ?_ rfl (by cases s.cur <;> rfl)⟩, rfl,
    fun c => ⟨_, rfl, rfl, rfl, shl1_toNat _⟩, fun c => ⟨_, rfl, rfl, rfl, shl1_toNat _⟩⟩
  · rw [decode_sel_data hst, dueBit_of_early (dueIndex_data hst) ho hearly]
    rfl
  · rw [decode_sel_data hst, dueBit_of_due (dueIndex_data hst) ho hdue, if_pos rfl, if_neg hindex]
  · rw [decode_sel_data hst, dueBit_of_due (dueIndex_data hst) ho hdue, if_pos rfl, if_pos hindex]

/-- What STOP.VALID does before it counts the byte and leaves for AwaitingStart (spec/43_accumulator.md R124). -/
def validRecorded (s : State) : State :=
  { push (interval s) (payload s) s with lastByteTick := s.now, linkCountdown := sentinelCount s.cfg }

theorem exec_stopValid (s : State) :
    exec .stopValid s = .next { countValidByte (validRecorded s) with st := .await } := rfl

/-- Whether an entry was pushed is told by the tail, memory and the events. -/
theorem pushesEntry_congr {v p : Half} {s t u : State} (h : pushesEntry v p s t) (htail : u.tail = t.tail)
    (hmem : u.mem = t.mem) (hevents : u.events = t.events) : pushesEntry v p s u := by
  rwa [pushesEntry, htail, hmem, hevents]

theorem interval_eq {s : State} (hscale : 1 ≤ s.cfg.intervalScale) :
    interval s = BitVec.ofNat 16 ((s.now - s.lastByteTick).toNat / s.cfg.intervalScale) := by
  rw [interval, udiv_of_pos _ hscale]
  rfl

/-- STOP.VALID pushes the interval and the byte (spec/43_accumulator.md R124). -/
theorem exec_stopValid_pushesEntry {s : State} (hlegal : s.cfg.isLegal = true) (htail : s.tail.toNat < s.cfg.ringN) :
    pushesEntry (BitVec.ofNat 16 ((s.now - s.lastByteTick).toNat / s.cfg.intervalScale)) (s.dataByte.setWidth 16) s
      { countValidByte (validRecorded s) with st := .await } := by
  obtain ⟨-, -, hscale, -⟩ := legal_positive hlegal
  rw [← interval_eq hscale]
  refine pushesEntry_congr (push_pushesEntry (interval s) (payload s) hlegal htail) ?_ ?_ ?_
  all_goals simp [validRecorded]

/-- Settles O12: the sample that is due and high selects, as `decode_sel_stop` says; the entry is that of
`push_pushesEntry`, and the byte is counted as `countValidByte` does. -/
theorem stopValidPushesInterval : Obligations.StopValidPushesInterval := by
  intro s hlegal htail
  obtain ⟨-, hsentinel⟩ := legal_words hlegal
  refine ⟨fun o hst ho hdue hcur => selectsBy_of_decode ?_ rfl rfl, _, exec_stopValid s,
    exec_stopValid_pushesEntry hlegal htail, ?_, ?_, fun hfull => ⟨?_, ?_⟩, fun hmore => ⟨?_, ?_⟩⟩
  · rw [decode_sel_stop hst, dueBit_of_due (dueIndex_stop hst) ho hdue, hcur]
    rfl
  · apply State.ext <;> simp [validRecorded]
  · rw [countValidByte_linkCountdown]
    exact sentinelCount_toNat hsentinel
  all_goals simp [validRecorded, *]

/-- Settles O10: a sample that is not due selects the waiting operation, which writes nothing. -/
theorem stopWaitSelectionAndEffect : Obligations.StopWaitSelectionAndEffect := by
  intro s
  refine ⟨fun o hst ho hearly => selectsBy_of_decode ?_ rfl rfl, rfl⟩
  rw [decode_sel_stop hst, dueBit_of_early (dueIndex_stop hst) ho hearly]
  rfl

/-- Settles O13: the state code alone selects. -/
theorem reservedStatesReturnToIdle : Obligations.ReservedStatesReturnToIdle := by
  intro s
  exact ⟨fun hst => selectsBy_of_decode (decode_sel_rsvd5 hst) rfl rfl,
    fun hst => selectsBy_of_decode (decode_sel_rsvd67 hst) rfl rfl, rfl, rfl⟩

/-- The table of a legal configuration lacks exactly the entries above 10 (spec/40_timing_scheduler.md R81 (a)). -/
theorem legal_offset_none_iff {c : Config} (h : c.isLegal = true) (k : Nat) : c.offsets[k]? = none ↔ 10 < k := by
  obtain ⟨-, -, hlen, -⟩ := (isLegal_iff c).mp h
  rw [List.getElem?_eq_none_iff, hlen]
  omega

/-- Settles O33: without an entry no sample is due, and of the indices that a state compares with only `bitIndex` can be
above 10. -/
theorem missingTableEntryIsNotDue : Obligations.MissingTableEntryIsNotDue := by
  intro s
  refine ⟨fun hst ho => selectsBy_of_decode ?_ rfl rfl, fun hst ho => selectsBy_of_decode ?_ rfl rfl,
    fun hst ho => selectsBy_of_decode ?_ rfl rfl, fun hlegal => ?_⟩
  · rw [decode_sel_confirm hst, dueBit_of_no_entry (dueIndex_confirm hst) ho]
    rfl
  · rw [decode_sel_data hst, dueBit_of_no_entry (dueIndex_data hst) ho]
    rfl
  · rw [decode_sel_stop hst, dueBit_of_no_entry (dueIndex_stop hst) ho]
    rfl
  · simp only [legal_offset_none_iff hlegal, dueIndex_iff]
    constructor
    · rintro ⟨k, ⟨-, rfl⟩ | ⟨hst, rfl⟩ | ⟨-, rfl⟩, hk⟩
      · omega
      · exact ⟨hst, hk⟩
      · omega
    · rintro ⟨hst, hk⟩
      exact ⟨_, .inr (.inl ⟨hst, rfl⟩), hk⟩

end Sys2Proof.Machine
end

section
/-! PROOFS of the family `other`, the invariants of spec/10_state.md R20. They hold after reset, the other agents keep them, and
so does each part of a step: an operation of the start-up sequence, an operation that an iteration selects, and the end of the
iteration. -/

namespace Sys2Proof.Machine

open Sys2Proof

/-! ### After reset -/

/-- The invariants hold in every state with the registers of the reset state. -/
theorem inv_resetWith (c : Config) (is : List Input) (n : Nat) :
    Inv { State.resetWith c with inputs := is, inputIdx := n } where
  canonical := List.Pairwise.nil
  checked := .inr (.inl ⟨rfl, rfl⟩)
  starting := fun _ => ⟨Nat.zero_le 6, rfl, rfl, rfl, rfl, rfl, fun h => absurd h (Nat.not_succ_le_zero 2)⟩
  decoding := fun h => by rcases h with h | h <;> cases h
  completed := ⟨(fun h => by cases h), fun _ => rfl⟩

/-! ### The other agents -/

/-- Agents that keep their roles leave the tail of a legal ring (spec/20_memory.md R49 (c)). -/
theorem read16_tail_agents {c : Config} {ws : List AgentWrite} (m : Memory) (hlegal : c.isLegal = true)
    (hroles : ∀ w ∈ ws, ¬ blockOwns c w.addr.toNat ∧ ¬ blockOwns c (nextAddr w.addr).toNat) :
    Memory.read16 (ws.foldl (fun m w => Memory.write16 m w.addr w.data) m) (tailAddr c) =
      Memory.read16 m (tailAddr c) := by
  obtain ⟨-, -, t1, t2⟩ := ring_addresses hlegal
  have howns : blockOwns c (tailAddr c).toNat ∧ blockOwns c (nextAddr (tailAddr c)).toNat := by
    unfold blockOwns
    omega
  obtain ⟨hlow, hhigh⟩ := howns
  rw [Memory.read16, Memory.read16, read_agents_ne, read_agents_ne]
  · exact fun w hw => ⟨fun heq => (hroles w hw).1 (heq ▸ hhigh), fun heq => (hroles w hw).2 (heq ▸ hhigh)⟩
  · exact fun w hw => ⟨fun heq => (hroles w hw).1 (heq ▸ hlow), fun heq => (hroles w hw).2 (heq ▸ hlow)⟩

theorem inv_takeInput {s : State} (h : Inv s) : Inv (takeInput s) :=
  ⟨h.canonical, h.checked, h.starting, h.decoding, h.completed⟩

theorem inv_latchPorts {s : State} (h : Inv s) (i : Input) : Inv (latchPorts i s) :=
  ⟨h.canonical, h.checked, h.starting, h.decoding, h.completed⟩

theorem inv_agentsWrite {s : State} {ws : List AgentWrite} (h : Inv s)
    (hroles : ∀ w ∈ ws, ¬ blockOwns s.cfg w.addr.toNat ∧ ¬ blockOwns s.cfg (nextAddr w.addr).toNat) :
    Inv (agentsWrite ws s) where
  canonical := agents_wf ws s.mem h.canonical
  checked := h.checked
  starting := fun hboot => by
    obtain ⟨hk, hst, hidle, hlow, hbyte, hlink, htail⟩ := h.starting hboot
    refine ⟨hk, hst, hidle, hlow, hbyte, hlink, fun h3 => ?_⟩
    obtain ⟨hcount, himage⟩ := htail h3
    have hlegal := legal_of_booting h.checked hboot fun h0 => by simp [agentsWrite, h0] at h3
    exact ⟨hcount, (read16_tail_agents s.mem hlegal hroles).trans himage⟩
  decoding := fun hphase => by
    obtain ⟨h1, h2, h3, h4, h5, ⟨htail, himage⟩, h7⟩ := h.decoding hphase
    have hlegal := legal_of_decoding h.checked hphase
    exact ⟨h1, h2, h3, h4, h5, ⟨htail, (read16_tail_agents s.mem hlegal hroles).trans himage⟩, h7⟩
  completed := h.completed

/-! ### An operation that an iteration selects -/

/-- V1 to V7 (spec/10_state.md R20). -/
def Decoding (s : State) : Prop := V1 s ∧ V2 s ∧ V3 s ∧ V4 s ∧ V5 s ∧ V6 s ∧ V7 s

/-! The conditions under which the counting and the sampling operations are selected (spec/30_encoding.md R63). -/

theorem of_selected_idleCnt {s : State} (hop : decodeStep (sel s) = .ok .idleCnt) :
    s.st = .idle ∧ s.idleCnt.toNat + 1 < s.cfg.idleThreshold := by
  have hst : s.st = .idle := by simpa [transition] using st_mem_transition_of_selected hop
  refine ⟨hst, ?_⟩
  by_contra hfull
  rw [decode_sel_idle hst, if_pos (Nat.not_lt.mp hfull)] at hop
  split at hop <;> cases hop

theorem of_selected_awaitCnt {s : State} (hop : decodeStep (sel s) = .ok .awaitCnt) :
    s.st = .await ∧ s.lowCnt.toNat + 1 < s.cfg.startThreshold := by
  have hst : s.st = .await := by simpa [transition] using st_mem_transition_of_selected hop
  refine ⟨hst, ?_⟩
  by_contra hfull
  rw [decode_sel_await hst, if_pos (Nat.not_lt.mp hfull)] at hop
  split at hop <;> cases hop

theorem of_selected_dataBit {s : State} {c : Bool} (hop : decodeStep (sel s) = .ok (.dataBit c)) :
    s.st = .data ∧ s.bitIndex ≠ 8 := by
  have hst : s.st = .data := by simpa [transition] using st_mem_transition_of_selected hop
  refine ⟨hst, fun hlast => ?_⟩
  rw [decode_sel_data hst, if_pos hlast] at hop
  split at hop <;> cases hop

theorem of_selected_dataLast {s : State} {c : Bool} (hop : decodeStep (sel s) = .ok (.dataLast c)) :
    s.st = .data ∧ s.bitIndex = 8 := by
  have hst : s.st = .data := by simpa [transition] using st_mem_transition_of_selected hop
  refine ⟨hst, ?_⟩
  by_contra hmore
  rw [decode_sel_data hst, if_neg hmore] at hop
  split at hop <;> cases hop

/-- A counter that has not reached its bound still has not after one more. -/
theorem succ_toNat_lt {w n : Nat} {v : BitVec w} (h : v.toNat + 1 < n) : (v + 1).toNat < n := by
  have hone : (1 : BitVec w).toNat ≤ 1 := Nat.mod_le 1 (2 ^ w)
  calc (v + 1).toNat ≤ v.toNat + (1 : BitVec w).toNat := BitVec.toNat_add v 1 ▸ Nat.mod_le _ _
    _ < n := by omega

section
variable {op : Instr} {s t : State} (hop : decodeStep (sel s) = .ok op) (hexec : exec op s = .next t)

include hop hexec in
/-- IDLE.CNT alone leaves the counter of Idle at another value than 0. -/
theorem exec_idleCnt_eq_zero (h : V1 s) (hne : op ≠ .idleCnt) : t.idleCnt = 0 := by
  obtain ⟨hzero, -⟩ := h
  have hst := st_mem_transition_of_selected hop
  cases op
  all_goals
    injection hexec with hexec
    subst hexec
    simp_all [transition]

include hop hexec in
/-- AWAIT.CNT alone leaves the counter of AwaitingStart at another value than 0. -/
theorem exec_lowCnt_eq_zero (h : V2 s) (hne : op ≠ .awaitCnt) : t.lowCnt = 0 := by
  obtain ⟨hzero, -⟩ := h
  have hst := st_mem_transition_of_selected hop
  cases op
  all_goals
    injection hexec with hexec
    subst hexec
    simp_all [transition]

include hop hexec in
theorem exec_V1 (hpos : 1 ≤ s.cfg.idleThreshold) (h : V1 s) : V1 t := by
  obtain ⟨hcfg, -⟩ := exec_keeps_surroundings hexec
  rw [V1, hcfg]
  by_cases hcnt : op = .idleCnt
  · subst hcnt
    obtain ⟨hst, hmore⟩ := of_selected_idleCnt hop
    injection hexec with hexec
    subst hexec
    exact ⟨fun hne => absurd hst hne, succ_toNat_lt hmore⟩
  · rw [exec_idleCnt_eq_zero hop hexec h hcnt]
    exact ⟨fun _ => rfl, hpos⟩

include hop hexec in
theorem exec_V2 (hpos : 1 ≤ s.cfg.startThreshold) (h : V2 s) : V2 t := by
  obtain ⟨hcfg, -⟩ := exec_keeps_surroundings hexec
  rw [V2, hcfg]
  by_cases hcnt : op = .awaitCnt
  · subst hcnt
    obtain ⟨hst, hmore⟩ := of_selected_awaitCnt hop
    injection hexec with hexec
    subst hexec
    exact ⟨fun hne => absurd hst hne, succ_toNat_lt hmore⟩
  · rw [exec_lowCnt_eq_zero hop hexec h hcnt]
    exact ⟨fun _ => rfl, hpos⟩

end

/-! Index, mask and byte while data bits are sampled (spec/43_accumulator.md R121). -/

/-- `n` data bits have been sampled: index and mask are those of the next one, and the byte holds lower bits only. -/
def Sampled (n : Nat) (s : State) : Prop :=
  s.bitIndex.toNat = n + 1 ∧ s.bitMask.toNat = 2 ^ n ∧ s.dataByte.toNat < 2 ^ n

/-- Sampling bit `n` adds its weight to the byte, which holds lower bits only. -/
theorem sampleDataBit_dataByte_toNat {n : Nat} {s : State} (c : Bool) (hn : n < 8) (h : Sampled n s) :
    (sampleDataBit c s).dataByte.toNat = s.dataByte.toNat + 2 ^ n * c.toNat := by
  obtain ⟨-, hmask, hbyte⟩ := h
  have hweight : 2 ^ n < 2 ^ 8 := Nat.pow_lt_pow_right (by decide) hn
  cases c with
  | false => simp
  | true =>
    have hor := Nat.two_pow_add_eq_or_of_lt hbyte 1
    rw [sampleDataBit_dataByte, if_pos rfl, BitVec.toNat_or, BitVec.toNat_setWidth, hmask, Nat.mod_eq_of_lt hweight,
      Nat.or_comm, Bool.toNat_true, Nat.add_comm]
    simpa using hor.symm

theorem sampleDataBit_sampled {n : Nat} {s : State} (c : Bool) (hn : n < 8) (h : Sampled n s) :
    Sampled (n + 1) (sampleDataBit c s) := by
  have hadd := sampleDataBit_dataByte_toNat c hn h
  obtain ⟨hindex, hmask, hbyte⟩ := h
  have hweight : 2 ^ n < 2 ^ 8 := Nat.pow_lt_pow_right (by decide) hn
  have hbit : 2 ^ n * c.toNat ≤ 2 ^ n := mul_le_of_le_one_right (Nat.zero_le _) (Bool.toNat_le c)
  refine ⟨?_, ?_, ?_⟩
  · rw [sampleDataBit_bitIndex]
    bv_omega
  · rw [sampleDataBit_bitMask, shl1_toNat, hmask]
    omega
  · rw [hadd, Nat.pow_succ]
    omega

theorem V3_iff (s : State) : V3 s ↔ (s.st = .data → ∃ n < 8, Sampled n s) := by
  refine forall_congr' fun _ => ⟨?_, ?_⟩
  · rintro ⟨hmin, hmax, hmask, hbyte⟩
    exact ⟨s.bitIndex.toNat - 1, by omega, by omega, hmask, hbyte⟩
  · rintro ⟨n, hn, hindex, hmask, hbyte⟩
    rw [hindex]
    exact ⟨by omega, by omega, hmask, hbyte⟩

/-- After the eighth data bit index and mask are at rest. -/
theorem Sampled.eight {s : State} (h : Sampled 8 s) : s.bitIndex = 9 ∧ s.bitMask = 0x0100 := by
  obtain ⟨hindex, hmask, -⟩ := h
  exact ⟨BitVec.eq_of_toNat_eq hindex, BitVec.eq_of_toNat_eq hmask⟩

section
variable {op : Instr} {s t : State} (hop : decodeStep (sel s) = .ok op) (hexec : exec op s = .next t)

include hop hexec in
theorem exec_V3 (h : V3 s) : V3 t := by
  rw [V3_iff] at h ⊢
  intro hdata
  rw [exec_st hexec] at hdata
  have hst := st_mem_transition_of_selected hop
  cases op
  case confOk =>
    injection hexec with hexec
    subst hexec
    exact ⟨0, by decide, rfl, rfl, Nat.one_pos⟩
  case dataWait =>
    injection hexec with hexec
    subst hexec
    exact h hdata
  case dataBit c =>
    injection hexec with hexec
    subst hexec
    obtain ⟨hst, hmore⟩ := of_selected_dataBit hop
    obtain ⟨n, hn, hsampled⟩ := h hst
    have hindex : n ≠ 7 := fun h7 => hmore (BitVec.eq_of_toNat_eq (by rw [hsampled.1, h7]; rfl))
    exact ⟨n + 1, by omega, sampleDataBit_sampled c hn hsampled⟩
  all_goals simp_all [transition]

include hop hexec in
theorem exec_V4 (h3 : V3 s) (h4 : V4 s) : V4 t := by
  intro hstop
  rw [exec_st hexec] at hstop
  have hst := st_mem_transition_of_selected hop
  cases op
  case dataLast c =>
    injection hexec with hexec
    subst hexec
    obtain ⟨hst, hlast⟩ := of_selected_dataLast hop
    obtain ⟨n, hn, hsampled⟩ := (V3_iff s).mp h3 hst
    have hindex : n = 7 := Nat.succ.inj (hsampled.1.symm.trans (by rw [hlast]; rfl))
    subst hindex
    exact (sampleDataBit_sampled c hn hsampled).eight
  case stopWait =>
    injection hexec with hexec
    subst hexec
    exact h4 hstop
  all_goals simp_all [transition]

include hexec in
/-- No operation enters a reserved state (spec/30_encoding.md R66). -/
theorem exec_V5 (h : V5 s) : V5 t := by
  rw [V5, exec_st hexec]
  cases op
  all_goals simp_all [V5, transition]

theorem push_V6 (v p : Half) (hlegal : s.cfg.isLegal = true) : V6 (push v p s) := by
  obtain ⟨hmin, hmax⟩ := legal_ringN hlegal
  exact ⟨incmod_lt s.tail (by omega) hmax, push_read_tail v p s⟩

include hop hexec in
theorem exec_V6 (hlegal : s.cfg.isLegal = true) (h : V6 s) : V6 t := by
  have hst := st_mem_transition_of_selected hop
  cases op
  case stopInvalid =>
    injection hexec with hexec
    subst hexec
    obtain ⟨htail, himage⟩ := push_V6 0 (payload s) hlegal
    exact ⟨htail, himage⟩
  case stopValid =>
    injection hexec with hexec
    subst hexec
    have hpush := push_V6 (interval s) (payload s) hlegal
    rw [V6, countValidByte_tail, countValidByte_cfg, countValidByte_mem]
    exact hpush
  case haltCont | haltStop | bootCfg | bootHead | bootTail | bootDiag0 | bootDiag1 | bootDiag2 | bootRun => cases hst
  all_goals
    injection hexec with hexec
    subst hexec
    exact h

theorem countValidByte_lt {s : State} (h : s.byteCounter.toNat < s.cfg.indicatorPeriod) :
    (countValidByte s).byteCounter.toNat < s.cfg.indicatorPeriod := by
  rw [countValidByte_byteCounter]
  split
  · exact Nat.zero_lt_of_lt h
  next hmore => exact succ_toNat_lt (lt_of_le_of_ne h hmore)

include hexec in
theorem exec_byteCounter_lt (h : s.byteCounter.toNat < s.cfg.indicatorPeriod) :
    t.byteCounter.toNat < s.cfg.indicatorPeriod := by
  cases op
  case stopValid =>
    injection hexec with hexec
    subst hexec
    exact countValidByte_lt h
  case bootCfg =>
    injection hexec with hexec
    subst hexec
    split
    · exact h
    · exact h
  case bootDiag0 | bootDiag1 | bootDiag2 =>
    injection hexec with hexec
    subst hexec
    rwa [pushDiag_byteCounter]
  all_goals
    injection hexec with hexec
    subst hexec
    exact h

include hexec in
theorem exec_linkCountdown_le (hsentinel : s.cfg.linkSentinel < 2 ^ 32) (h : s.linkCountdown.toNat ≤ s.cfg.linkSentinel) :
    t.linkCountdown.toNat ≤ s.cfg.linkSentinel := by
  by_cases hage : op = .awaitAge
  · subst hage
    rw [exec_awaitAge_linkCountdown hexec, satdec_toNat]
    omega
  · by_cases hvalid : op = .stopValid
    · subst hvalid
      rw [exec_stopValid_linkCountdown hexec, sentinelCount_toNat hsentinel]
    · rwa [exec_linkCountdown_of_ne hage hvalid hexec]

include hexec in
theorem exec_V7 (hlegal : s.cfg.isLegal = true) (h : V7 s) : V7 t := by
  obtain ⟨hcfg, -⟩ := exec_keeps_surroundings hexec
  obtain ⟨-, hsentinel⟩ := legal_words hlegal
  obtain ⟨hbyte, hlink⟩ := h
  rw [V7, hcfg]
  exact ⟨exec_byteCounter_lt hexec hbyte, exec_linkCountdown_le hexec hsentinel hlink⟩

include hop hexec in
/-- An operation that an iteration selects keeps V1 to V7. -/
theorem exec_decoding (hlegal : s.cfg.isLegal = true) (h : Decoding s) : Decoding t := by
  obtain ⟨hidle, hstart, -, -⟩ := legal_positive hlegal
  obtain ⟨h1, h2, h3, h4, h5, h6, h7⟩ := h
  exact ⟨exec_V1 hop hexec hidle h1, exec_V2 hop hexec hstart h2, exec_V3 hop hexec h3, exec_V4 hop hexec h3 h4,
    exec_V5 hexec h5, exec_V6 hop hexec hlegal h6, exec_V7 hexec hlegal h7⟩

include hexec in
theorem exec_wf (h : Memory.wf s.mem) : Memory.wf t.mem := by
  obtain ⟨-, hmem⟩ := exec_drives hexec
  rw [hmem]
  exact replay_wf _ _ h

include hexec in
/-- COMPLETE is emitted by HALT.STOP alone (spec/46_shutdown.md R162). -/
theorem exec_completions (hop : op ≠ .haltStop) : completions t = completions s := by
  obtain ⟨hevents, -⟩ := exec_drives hexec
  have hnone : (beats op s).count .complete = 0 := by
    cases op
    case haltStop => exact absurd rfl hop
    all_goals rfl
  rw [completions, hevents, List.count_append, hnone]
  rfl

include hexec in
/-- An operation of the STEP format leaves the phase. -/
theorem exec_phase (hformat : op.format = .step) : t.phase = s.phase := by
  cases op
  case haltCont | haltStop | bootCfg | bootHead | bootTail | bootDiag0 | bootDiag1 | bootDiag2 | bootRun => cases hformat
  case stopValid =>
    injection hexec with hexec
    subst hexec
    exact countValidByte_phase _
  all_goals
    injection hexec with hexec
    subst hexec
    rfl

end

/-! ### The end of an iteration -/

theorem finished_decoding {s : State} (h : Decoding s) : Decoding (finished s) := by
  unfold finished
  split
  · exact h
  · exact h

theorem finished_phase (s : State) : (finished s).phase = if s.shut then .halted else s.phase := by
  unfold finished
  split <;> rfl

theorem finished_completions (s : State) : completions (finished s) = completions s + if s.shut then 1 else 0 := by
  rw [completions, finished_events, List.count_append, completions]
  split <;> rfl

/-- The end of an iteration keeps the invariants: it halts with COMPLETE, or goes on. -/
theorem inv_finished {s : State} (h : Inv s) (hrun : s.phase = .run) : Inv (finished s) := by
  obtain ⟨-, hmem⟩ := finished_drives s
  have hphase := finished_phase s
  have hdecoding : (finished s).phase = .run ∨ (finished s).phase = .halted := by
    rw [hphase, hrun]
    split <;> simp
  obtain ⟨-, hnone⟩ := h.completed
  have hlegal := legal_of_decoding h.checked (.inl hrun)
  refine ⟨?_, .inl ?_, fun hboot => ?_, fun _ => finished_decoding (h.decoding (.inl hrun)), ?_⟩
  · rw [hmem]
    exact replay_wf _ _ h.canonical
  · rwa [finished_cfg]
  · simp [hboot] at hdecoding
  · rw [V8, hphase, finished_completions, hrun, hnone (by simp [hrun])]
    split <;> simp

/-- An operation that an iteration selects keeps the invariants. -/
theorem inv_exec_of_selected {op : Instr} {s t : State} (h : Inv s) (hrun : s.phase = .run)
    (hop : decodeStep (sel s) = .ok op) (hexec : exec op s = .next t) : Inv t ∧ t.phase = .run := by
  have hformat := format_of_mem_transition (st_mem_transition_of_selected hop)
  have hphase : t.phase = .run := (exec_phase hexec hformat).trans hrun
  have hlegal := legal_of_decoding h.checked (.inl hrun)
  obtain ⟨hcfg, -⟩ := exec_keeps_surroundings hexec
  have hcompletions := exec_completions hexec (by rintro rfl; cases hformat)
  refine ⟨⟨exec_wf hexec h.canonical, .inl (by rwa [hcfg]), fun hboot => ?_,
    fun _ => exec_decoding hop hexec hlegal (h.decoding (.inl hrun)), ?_⟩, hphase⟩
  · rw [hphase] at hboot
    cases hboot
  · obtain ⟨-, hnone⟩ := h.completed
    rw [V8, hcompletions, hphase, hnone (by simp [hrun])]
    simp

theorem inv_iterate {s : State} (h : Inv s) (hrun : s.phase = .run) : ∃ t, iterate s = .next t ∧ Inv t := by
  obtain ⟨op, u, hop, hexec⟩ := exists_selected_exec s
  obtain ⟨hinv, hphase⟩ := inv_exec_of_selected h hrun hop hexec
  exact ⟨_, iterate_of_selected hop hexec, inv_finished hinv hphase⟩

/-! ### The start-up sequence -/

/-- A start-up operation that stays in phase BOOT keeps the invariants if it keeps what the start-up sequence needs. -/
theorem inv_of_startingUp {op : Instr} {s t : State} (h : Inv s) (hboot : s.phase = .boot) (hexec : exec op s = .next t)
    (hop : op ≠ .haltStop) (hlegal : s.cfg.isLegal = true) (hphase : t.phase = .boot) (hstarting : startingUp t) : Inv t where
  canonical := exec_wf hexec h.canonical
  checked := .inl ((exec_keeps_surroundings hexec).1 ▸ hlegal)
  starting := hstarting
  decoding := fun hp => by simp [hphase] at hp
  completed := by
    obtain ⟨-, hnone⟩ := h.completed
    rw [V8, exec_completions hexec hop, hphase, hnone (by simp [hboot])]
    simp

/-- The push of a diagnostic entry moves the tail on with the index. -/
theorem startingUp_pushDiag (e : RingEntry) {s : State} (h : startingUp s) (hboot : s.phase = .boot)
    (hlegal : s.cfg.isLegal = true) (hmin : 3 ≤ s.bseq.toNat) (hmax : s.bseq.toNat ≤ 5) : startingUp (pushDiag e s) := by
  obtain ⟨-, hst, hidle, hlow, hbyte, hlink, htail⟩ := h hboot
  obtain ⟨hcount, -⟩ := htail hmin
  obtain ⟨hring, hring'⟩ := legal_ringN hlegal
  have hk : (s.bseq + 1).toNat = s.bseq.toNat + 1 := by bv_omega
  have hnew : (incmod s.tail s.cfg.ringN).toNat = s.tail.toNat + 1 := by
    rw [incmod_toNat s.tail (by omega) hring', Nat.mod_eq_of_lt (by omega)]
  intro _
  rw [pushDiag_bseq, pushDiag_st, pushDiag_idleCnt, pushDiag_lowCnt, pushDiag_byteCounter, pushDiag_linkCountdown,
    pushDiag_tail, pushDiag_mem, pushDiag_cfg, hk, hnew, hcount]
  exact ⟨by omega, hst, hidle, hlow, hbyte, hlink, fun _ => ⟨by omega, push_read_tail e.value e.payload s⟩⟩

/-- BOOT.CFG goes on with a legal configuration, and otherwise refuses, having driven nothing. -/
theorem inv_bootCfg {s t : State} (h : Inv s) (hboot : s.phase = .boot) (hk : s.bseq = 0)
    (hexec : exec .bootCfg s = .next t) : Inv t := by
  obtain ⟨-, hst, hidle, hlow, hbyte, hlink, -⟩ := h.starting hboot
  cases hlegal : s.cfg.isLegal with
  | true =>
    have ht : t = advanceBoot s := (Host.Outcome.next.inj hexec).symm.trans (if_pos hlegal)
    have hone : t.bseq.toNat = 1 := by
      rw [ht, advanceBoot_bseq, hk]
      rfl
    refine inv_of_startingUp h hboot hexec (by simp) hlegal (ht ▸ hboot) fun _ => ?_
    rw [hone, ht]
    exact ⟨by decide, hst, hidle, hlow, hbyte, hlink, fun h3 => absurd h3 (by decide)⟩
  | false =>
    obtain rfl : t = refuseConfig s := (Host.Outcome.next.inj hexec).symm.trans (if_neg (by simp [hlegal]))
    obtain ⟨-, hnone⟩ := h.completed
    exact ⟨h.canonical, .inr (.inr rfl), (fun hb => by cases hb), (fun hp => by simp at hp),
      (fun hh => by cases hh), fun _ => hnone (by simp [hboot])⟩

/-- BOOT.RUN starts the loop with the registers of reset, and the tail that counts the three diagnostic entries
(spec/70_reset_and_hazards.md R194). -/
theorem inv_bootRun {s : State} (h : Inv s) (hboot : s.phase = .boot) (hk : s.bseq = 6) :
    Inv { s with phase := .run } := by
  obtain ⟨-, hst, hidle, hlow, hbyte, hlink, htail⟩ := h.starting hboot
  have hlegal := legal_of_booting h.checked hboot (by simp [hk])
  obtain ⟨hpos1, hpos2, -, hpos3⟩ := legal_positive hlegal
  obtain ⟨hring, -⟩ := legal_ringN hlegal
  obtain ⟨-, hnone⟩ := h.completed
  rw [hk] at htail
  obtain ⟨hcount, himage⟩ := htail (by decide)
  refine ⟨h.canonical, .inl hlegal, (fun hb => by cases hb), fun _ => ⟨?_, ?_, ?_, ?_, ?_, ?_, ?_⟩,
    (fun hh => by cases hh), fun _ => hnone (by simp [hboot])⟩
  · exact ⟨fun _ => hidle, hidle ▸ hpos1⟩
  · exact ⟨fun _ => hlow, hlow ▸ hpos2⟩
  · exact fun hdata => by simp [hst] at hdata
  · exact fun hstop => by simp [hst] at hstop
  · simp [V5, hst]
  · exact ⟨hcount ▸ hring, himage⟩
  · exact ⟨hbyte ▸ hpos3, hlink ▸ Nat.zero_le _⟩

/-- A start-up operation keeps the invariants. -/
theorem inv_exec_of_booting {op : Instr} {s t : State} (h : Inv s) (hboot : s.phase = .boot)
    (hop : decodeBoot s.bseq = .ok op) (hexec : exec op s = .next t) : Inv t := by
  have hk := bseq_of_decodeBoot hop
  obtain ⟨-, hst, hidle, hlow, hbyte, hlink, -⟩ := h.starting hboot
  cases op
  case bootCfg => exact inv_bootCfg h hboot (Selector.boot.inj hk) hexec
  case bootHead =>
    obtain hk : s.bseq = 1 := Selector.boot.inj hk
    have hlegal := legal_of_booting h.checked hboot (by simp [hk])
    refine inv_of_startingUp h hboot hexec (by simp) hlegal ?_ fun _ => ?_
    all_goals
      injection hexec with hexec
      subst hexec
    · exact hboot
    · rw [advanceBoot_bseq, memWrite16_bseq, hk]
      exact ⟨by decide, hst, hidle, hlow, hbyte, hlink, fun h3 => absurd h3 (by decide)⟩
  case bootTail =>
    obtain hk : s.bseq = 2 := Selector.boot.inj hk
    have hlegal := legal_of_booting h.checked hboot (by simp [hk])
    refine inv_of_startingUp h hboot hexec (by simp) hlegal ?_ fun _ => ?_
    all_goals
      injection hexec with hexec
      subst hexec
    · exact hboot
    · rw [advanceBoot_bseq, memWrite16_bseq, hk]
      exact ⟨by decide, hst, hidle, hlow, hbyte, hlink, fun _ => ⟨rfl, read16_write16_same ..⟩⟩
  case bootDiag0 | bootDiag1 | bootDiag2 =>
    have hk := Selector.boot.inj hk
    have hlegal := legal_of_booting h.checked hboot (by simp [hk])
    refine inv_of_startingUp h hboot hexec (by simp) hlegal ?_ ?_
    all_goals
      injection hexec with hexec
      subst hexec
    · exact (pushDiag_phase ..).trans hboot
    · exact startingUp_pushDiag _ h.starting hboot hlegal (by rw [hk]; decide) (by rw [hk]; decide)
  case bootRun =>
    obtain hk : s.bseq = 6 := Selector.boot.inj hk
    injection hexec with hexec
    subst hexec
    exact inv_bootRun h hboot hk
  all_goals cases hk

/-! ### The obligations -/

/-- Settles O47: `inv_resetWith`. -/
theorem invariantsHoldAfterReset : Obligations.InvariantsHoldAfterReset :=
  ⟨inv_resetWith Config.reference [] 0, fun c is => inv_resetWith c is 0⟩

/-- Settles O48: the other agents keep the invariants, and after them the block's part of the step does: a reset, a start-up
operation, an iteration, or nothing. -/
theorem everyStepKeepsTheInvariants : Obligations.EveryStepKeepsTheInvariants := by
  intro s h hroles
  cases hreset : (nextInput s).reset with
  | true => exact ⟨_, stepUnder_of_reset hreset, inv_resetWith s.cfg s.inputs.tail (s.inputIdx + 1)⟩
  | false =>
    have hagents : Inv (agentsWrite (nextInput s).agentWrites (takeInput s)) := inv_agentsWrite (inv_takeInput h) hroles
    cases hphase : s.phase with
    | boot =>
      obtain ⟨hmax, -⟩ := h.starting hphase
      obtain ⟨op, hop⟩ := decodeBoot_ok (k := s.bseq) fun h7 => by simp [h7] at hmax
      obtain ⟨t, hexec⟩ := exec_answersNext op (agentsWrite (nextInput s).agentWrites (takeInput s))
      exact ⟨t, (step_of_decodeBoot hreset hphase hop).trans hexec, inv_exec_of_booting hagents hphase hop hexec⟩
    | run =>
      rw [step, stepUnder_of_run (s := takeInput s) hreset hphase]
      exact inv_iterate (inv_latchPorts hagents (nextInput s)) hphase
    | halted => exact ⟨_, stepUnder_of_stopped hreset (.inl hphase), hagents⟩
    | cfgFault => exact ⟨_, stepUnder_of_stopped hreset (.inr hphase), hagents⟩

end Sys2Proof.Machine
end

section
/-! PROOFS of the family `other`, the independence of memory (spec/20_memory.md R52): the block never reads memory, so a step
from another memory, under other writes of the other agents, does the same and leaves another memory. -/

namespace Sys2Proof.Machine

open Sys2Proof

/-- `s` with the contents `m` in memory. -/
def withMemory (m : Memory) (s : State) : State := { s with mem := m }

theorem sameButMemory_iff {s t : State} : sameButMemory s t ↔ ∃ m, t = withMemory m s := by
  constructor
  · exact fun h => ⟨t.mem, h⟩
  · rintro ⟨m, rfl⟩
    rfl

section
variable (m : Memory) (s : State)

/-- No selector field depends on memory (spec/30_encoding.md R61). -/
theorem sel_withMemory : sel (withMemory m s) = sel s := rfl

theorem countValidByte_withMemory : countValidByte (withMemory m s) = withMemory m (countValidByte s) := by
  unfold countValidByte withMemory
  dsimp only
  split
  · rfl
  · rfl

theorem finished_withMemory : finished (withMemory m s) = withMemory m (finished s) := by
  unfold finished withMemory
  dsimp only
  split
  · rfl
  · rfl

theorem validRecorded_withMemory : ∃ m', validRecorded (withMemory m s) = withMemory m' (validRecorded s) := ⟨_, rfl⟩

/-- From another memory and under other writes, the other agents leave a state that differs in memory only. -/
theorem agentsWrite_withMemory (ws vs : List AgentWrite) :
    ∃ m', agentsWrite ws (withMemory m s) = withMemory m' (agentsWrite vs s) := ⟨_, rfl⟩

end

section
variable {s t : State}

/-- No operation reads memory: `PUSH` writes without reading (spec/20_memory.md R51). -/
theorem exec_withMemory {op : Instr} (h : exec op s = .next t) (m : Memory) :
    ∃ m', exec op (withMemory m s) = .next (withMemory m' t) := by
  cases op
  case bootCfg =>
    injection h with h
    subst h
    refine ⟨m, congrArg Host.Outcome.next ?_⟩
    unfold withMemory
    dsimp only
    split
    · rfl
    · rfl
  case stopValid =>
    rw [exec_stopValid] at h
    injection h with h
    subst h
    obtain ⟨m', hm'⟩ := validRecorded_withMemory m s
    exact ⟨m', by rw [exec_stopValid, hm', countValidByte_withMemory]; rfl⟩
  all_goals
    injection h with h
    subst h
    exact ⟨_, rfl⟩

theorem execSelected_withMemory {w : Selector} (h : execSelected w s = .next t) (m : Memory) :
    ∃ m', execSelected w (withMemory m s) = .next (withMemory m' t) := by
  unfold execSelected at h ⊢
  cases hw : decode w with
  | ok op =>
    rw [hw] at h
    exact exec_withMemory h m
  | error e =>
    rw [hw] at h
    cases h

theorem iterate_withMemory (h : iterate s = .next t) (m : Memory) :
    ∃ m', iterate (withMemory m s) = .next (withMemory m' t) := by
  obtain ⟨u, hu, ht⟩ := andThen_eq_next_iff.mp h
  obtain ⟨m', hm'⟩ := execSelected_withMemory hu m
  rw [finishIteration_eq] at ht
  injection ht with ht
  subst ht
  refine ⟨m', ?_⟩
  rw [iterate, sel_withMemory, hm', andThen, finishIteration_eq, finished_withMemory]

theorem stepUnder_withMemory {i : Input} (h : stepUnder i s = .next t) (m : Memory) (ws : List AgentWrite) :
    ∃ m', stepUnder { i with agentWrites := ws } (withMemory m s) = .next (withMemory m' t) := by
  obtain ⟨m₁, hagents⟩ := agentsWrite_withMemory m s ws i.agentWrites
  rcases Bool.eq_false_or_eq_true i.reset with hreset | hreset
  · rw [stepUnder_of_reset hreset] at h
    injection h with h
    subst h
    exact ⟨_, stepUnder_of_reset hreset⟩
  · cases hphase : s.phase with
    | boot =>
      rw [stepUnder_of_boot hreset hphase] at h
      rw [stepUnder_of_boot (i := { i with agentWrites := ws }) (s := withMemory m s) hreset hphase, hagents]
      exact execSelected_withMemory h m₁
    | run =>
      rw [stepUnder_of_run hreset hphase] at h
      rw [stepUnder_of_run (i := { i with agentWrites := ws }) (s := withMemory m s) hreset hphase, hagents]
      exact iterate_withMemory h m₁
    | halted | cfgFault =>
      have hstopped : s.phase = .halted ∨ s.phase = .cfgFault := by simp [hphase]
      rw [stepUnder_of_stopped hreset hstopped] at h
      injection h with h
      subst h
      exact ⟨m₁, (stepUnder_of_stopped (i := { i with agentWrites := ws }) (s := withMemory m s) hreset hstopped).trans
        (congrArg Host.Outcome.next hagents)⟩

end

/-- Settles O49: `stepUnder_withMemory`, for the input of the step with other writes. -/
theorem memoryDoesNotInfluenceTheBlock : Obligations.MemoryDoesNotInfluenceTheBlock := by
  intro s t s' ws hst hstep
  obtain ⟨m, rfl⟩ := sameButMemory_iff.mp hst
  obtain ⟨m', hm'⟩ := stepUnder_withMemory hstep m ws
  exact ⟨_, hm', sameButMemory_iff.mpr ⟨m', rfl⟩⟩

end Sys2Proof.Machine
end

section
/-! PROOFS of the family `other`, the start-up operations (spec/70_reset_and_hazards.md R196 to R200) and the arithmetic of
words, ticks and pushes. -/

namespace Sys2Proof

/-! ### The check of the configuration -/

/-- The check of the table's order is the order of neighbours (spec/40_timing_scheduler.md R81 (c)). -/
theorem strictlyIncreasing_iff (l : List Nat) : strictlyIncreasing l = true ↔
    ∀ i a b, l[i]? = some a → l[i + 1]? = some b → a < b := by
  induction l using strictlyIncreasing.induct with
  | case1 => simp [strictlyIncreasing]
  | case2 a => simp [strictlyIncreasing]
  | case3 a b rest ih =>
    rw [strictlyIncreasing, Bool.and_eq_true, decide_eq_true_eq, ih]
    constructor
    · rintro ⟨hab, hrest⟩ (_ | i) x y hx hy
      · simp_all
      · exact hrest i x y hx hy
    · intro h
      exact ⟨h 0 a b rfl rfl, fun i x y hx hy => h (i + 1) x y hx hy⟩

/-- The check of the table's span is the comparison with ten rational bit periods (spec/40_timing_scheduler.md R81 (d)). -/
theorem tableSpanOk_iff {c : Config} (hbaud : 0 < c.baud) : c.tableSpanOk = true ↔
    ∃ o : Nat, c.offsets[9]? = some o ∧ (o : ℚ) < 10 * ((c.tickHz : ℚ) / (c.baud : ℚ)) := by
  have hpos : (0 : ℚ) < c.baud := by exact_mod_cast hbaud
  unfold Config.tableSpanOk
  cases c.offsets[9]? with
  | none => simp
  | some o =>
    simp only [decide_eq_true_eq, Option.some.injEq, exists_eq_left']
    rw [← mul_div_assoc, lt_div_iff₀ hpos]
    exact_mod_cast Iff.rfl

namespace Machine

theorem exec_bootCfg_of_legal {s : State} (h : s.cfg.isLegal = true) : exec .bootCfg s = .next (advanceBoot s) :=
  congrArg Host.Outcome.next (if_pos h)

theorem exec_bootCfg_of_illegal {s : State} (h : s.cfg.isLegal ≠ true) : exec .bootCfg s = .next (refuseConfig s) :=
  congrArg Host.Outcome.next (if_neg h)

/-- Settles O15: the statement's constraints are those of `isLegal_iff`, with the order and the span of the table written
out. -/
theorem bootCfgChecksEveryConstraint : Obligations.BootCfgChecksEveryConstraint := by
  intro s c legal
  have hlegal : legal ↔ c.isLegal = true := by
    have hbaud : c.baud ∈ [19200, 57600, 115200, 125000] ↔
        c.baud = 19200 ∨ c.baud = 57600 ∨ c.baud = 115200 ∨ c.baud = 125000 := by simp
    have hpos : c.baud = 19200 ∨ c.baud = 57600 ∨ c.baud = 115200 ∨ c.baud = 125000 → 0 < c.baud := by omega
    rw [isLegal_iff]
    constructor
    · rintro ⟨h1, h2, h3, h4, horder, hspan, h7, h8, h9, h10, h11, h12, h13, h14, h15, h16⟩
      rw [hbaud] at h1
      exact ⟨h1, h2, h3, h4, (strictlyIncreasing_iff _).mpr horder, (tableSpanOk_iff (hpos h1)).mpr hspan, h7, h8, h9, h10,
        h11, h12, ⟨h13, h14⟩, Nat.mod_eq_zero_of_dvd h15, h16⟩
    · rintro ⟨h1, h2, h3, h4, horder, hspan, h7, h8, h9, h10, h11, h12, ⟨h13, h14⟩, h15, h16⟩
      exact ⟨hbaud.mpr h1, h2, h3, h4, (strictlyIncreasing_iff _).mp horder, (tableSpanOk_iff (hpos h1)).mp hspan, h7, h8, h9,
        h10, h11, h12, h13, h14, Nat.dvd_of_mod_eq_zero h15, h16⟩
  rw [hlegal]
  exact ⟨exec_bootCfg_of_legal, exec_bootCfg_of_illegal⟩

/-! ### The start-up operations -/

/-- Settles O16: each is one 16-bit write. -/
theorem bootHeadAndTailWriteTheHeader : Obligations.BootHeadAndTailWriteTheHeader := by
  intro s
  exact ⟨⟨_, rfl, rfl, read16_write16_same .., fun _ hlow hhigh => read_write16_ne _ _ hlow hhigh⟩,
    ⟨_, rfl, rfl, read16_write16_same .., fun _ hlow hhigh => read_write16_ne _ _ hlow hhigh⟩⟩

theorem pushDiag_pushesEntry (e : RingEntry) {s : State} (hlegal : s.cfg.isLegal = true) (htail : s.tail.toNat < s.cfg.ringN) :
    pushesEntry e.value e.payload s (pushDiag e s) :=
  pushesEntry_congr (push_pushesEntry e.value e.payload hlegal htail) rfl rfl rfl

theorem pushDiag_writes (e : RingEntry) (s : State) :
    pushDiag e s = { s with
      bseq := s.bseq + 1, tail := (pushDiag e s).tail, mem := (pushDiag e s).mem, events := (pushDiag e s).events } := by
  apply State.ext <;> simp

/-- Settles O17: each is `pushDiag` of its entry. -/
theorem bootDiagPushesEntries : Obligations.BootDiagPushesEntries := by
  intro s hlegal htail
  exact ⟨⟨_, rfl, pushDiag_pushesEntry s.cfg.diag0 hlegal htail, pushDiag_writes _ s⟩,
    ⟨_, rfl, pushDiag_pushesEntry s.cfg.diag1 hlegal htail, pushDiag_writes _ s⟩,
    ⟨_, rfl, pushDiag_pushesEntry s.cfg.diag2 hlegal htail, pushDiag_writes _ s⟩⟩

/-- Settles O18: this is the meaning of BOOT.RUN. -/
theorem bootRunStartsTheLoop : Obligations.BootRunStartsTheLoop := fun _ => rfl

/-! ### Words and ticks -/

/-- Settles O22: a write stores the two bytes of the word, and a read puts the two bytes together. -/
theorem wordsAreLittleEndian : Obligations.WordsAreLittleEndian := by
  intro m a v ha
  have hnext := nextAddr_toNat ha
  refine ⟨read_write16_low m a v, hnext ▸ read_write16_high m a v,
    fun x hlow hhigh => read_write16_ne m v hlow (hnext ▸ hhigh), read16_write16_same m a v, fun lo hi hlo hhi => ?_⟩
  refine ⟨hi ++ lo, by simp only [Memory.read16, hnext, hlo, hhi], ?_⟩
  rw [BitVec.toNat_append, Nat.shiftLeft_eq, Nat.mul_comm, ← Nat.two_pow_add_eq_or_of_lt lo.isLt]
  omega

/-- Settles O24: the elapsed ticks are the difference of a difference, both modulo 2^32. -/
theorem elapsedAfterEdge : Obligations.ElapsedAfterEdge := by
  intro s n
  refine ⟨_, rfl, ?_⟩
  have hlatency : (latencyTicks s.cfg).toNat = s.cfg.latencyComp % 2 ^ 32 := BitVec.toNat_ofNat ..
  calc ((sub32 n (sub32 s.now (latencyTicks s.cfg))).toNat : ℤ)
      = ((n.toNat : ℤ) - ((s.now.toNat : ℤ) - (s.cfg.latencyComp % 2 ^ 32 : ℕ)) % 2 ^ 32) % 2 ^ 32 := by
        rw [sub32_toNat, sub32_toNat, hlatency]
    _ = ((n.toNat : ℤ) - s.now.toNat + s.cfg.latencyComp) % 2 ^ 32 := by omega

/-! ### Any number of pushes -/

theorem pushAll_cons (e : RingEntry) (es : List RingEntry) (s : State) :
    pushAll (e :: es) s = pushAll es (push e.value e.payload s) := rfl

theorem pushAll_concat (es : List RingEntry) (e : RingEntry) (s : State) :
    pushAll (es ++ [e]) s = push e.value e.payload (pushAll es s) := List.foldl_append

theorem pushAll_cfg (es : List RingEntry) (s : State) : (pushAll es s).cfg = s.cfg := by
  induction es generalizing s with
  | nil => rfl
  | cons e es ih => rw [pushAll_cons, ih, push_cfg]

/-- Pushes move the tail of a legal ring on by their number, modulo the capacity. -/
theorem pushAll_tail (es : List RingEntry) {s : State} (hlegal : s.cfg.isLegal = true) (htail : s.tail.toNat < s.cfg.ringN) :
    (pushAll es s).tail.toNat = (s.tail.toNat + es.length) % s.cfg.ringN := by
  obtain ⟨hmin, hmax⟩ := legal_ringN hlegal
  induction es generalizing s with
  | nil => exact (Nat.mod_eq_of_lt htail).symm
  | cons e es ih =>
    rw [pushAll_cons, ih (s := push e.value e.payload s) hlegal (incmod_lt s.tail (by omega) hmax) hmin hmax, push_cfg, push_tail,
      incmod_toNat s.tail (by omega) hmax, Nat.mod_add_mod, List.length_cons, Nat.add_assoc, Nat.add_comm 1]

/-- `PUSH` leaves the head of a legal ring. -/
theorem read16_head_push (v p : Half) {s : State} (hlegal : s.cfg.isLegal = true) (htail : s.tail.toNat < s.cfg.ringN) :
    Memory.read16 (push v p s).mem (headAddr s.cfg) = Memory.read16 s.mem (headAddr s.cfg) := by
  rw [← replay_pushBeats]
  exact read16_head_replay hlegal _ _ fun _ _ hmem => pushBeats_wordAddr htail hmem

theorem read16_head_pushAll (es : List RingEntry) {s : State} (hlegal : s.cfg.isLegal = true)
    (htail : s.tail.toNat < s.cfg.ringN) :
    Memory.read16 (pushAll es s).mem (headAddr s.cfg) = Memory.read16 s.mem (headAddr s.cfg) := by
  obtain ⟨hmin, hmax⟩ := legal_ringN hlegal
  induction es generalizing s with
  | nil => rfl
  | cons e es ih =>
    have hrest := ih (s := push e.value e.payload s) hlegal (incmod_lt s.tail (by omega) hmax) hmin hmax
    rw [push_cfg] at hrest
    rw [pushAll_cons, hrest, read16_head_push e.value e.payload hlegal htail]

/-- Settles O26: the tail is `pushAll_tail`; the entry pushed after N others finds the tail at 0 again. -/
theorem pushesFillThenOverwrite : Obligations.PushesFillThenOverwrite := by
  intro s es hlegal hzero hhead
  obtain ⟨hmin, hmax⟩ := legal_ringN hlegal
  have htail : s.tail.toNat < s.cfg.ringN := by
    rw [hzero]
    exact Nat.lt_of_lt_of_le (by decide) hmin
  have hcount : ∀ fs : List RingEntry, (pushAll fs s).tail.toNat = fs.length % s.cfg.ringN := fun fs => by
    rw [pushAll_tail fs hlegal htail, hzero]
    simp
  refine ⟨(read16_head_pushAll es hlegal htail).trans hhead, fun hlt => ?_, fun hlen => ⟨?_, ?_⟩⟩
  · rw [hcount, Nat.mod_eq_of_lt hlt]
  · rw [hcount, hlen, Nat.add_mod_left, Nat.mod_eq_of_lt (by omega)]
  · obtain ⟨fs, e, rfl⟩ := List.eq_nil_or_concat' es |>.resolve_left (by rintro rfl; simp at hlen)
    have hfull : (pushAll fs s).tail = 0 := by
      refine BitVec.eq_of_toNat_eq ?_
      rw [hcount, show fs.length = s.cfg.ringN by simpa using hlen, Nat.mod_self]
      rfl
    have hentry := push_read_entry e.value e.payload (pushAll fs s) (by rwa [pushAll_cfg])
      (by rw [pushAll_cfg, hfull]; exact Nat.lt_of_lt_of_le (by decide) hmin)
    rw [pushAll_cfg, hfull, ← pushAll_concat] at hentry
    exact ⟨e, by simp, hentry⟩

end Machine

end Sys2Proof
end

section
/-! PROOFS of the family `other`, runs of many iterations: an idle line that arms the decoder (spec/42_frame_alignment.md R102),
and a whole frame (spec/40_timing_scheduler.md R86, spec/43_accumulator.md R126, R128). Both are iterations in which nobody
resets the block, writes to memory or requests a stop. -/

namespace Sys2Proof.Machine

open Sys2Proof

/-! ### A quiet iteration -/

/-- `s` with the ports read in a quiet iteration, after which the inputs `is` are to come. -/
def reading (n : Tick) (b : Bool) (is : List Input) (s : State) : State :=
  { s with now := n, cur := b, shut := false, inputs := is, inputIdx := s.inputIdx + 1 }

section
variable {s u : State} {n : Tick} {b : Bool} {is : List Input} (hinputs : s.inputs = Input.quiet n b false :: is)
include hinputs

theorem nextInput_of_quiet : nextInput s = Input.quiet n b false := by
  rw [nextInput, hinputs]

theorem iterationStart_of_quiet : iterationStart s = reading n b is s := by
  rw [iterationStart, nextInput_of_quiet hinputs, takeInput, hinputs]
  rfl

/-- A quiet iteration executes the operation it selects and refreshes `prev`. -/
theorem step_of_quiet {op : Instr} (hrun : s.phase = .run) (hop : decodeStep (sel (reading n b is s)) = .ok op)
    (hexec : exec op (reading n b is s) = .next u) : step s = .next { u with prev := b } := by
  have hnext := nextInput_of_quiet hinputs
  have hstart := iterationStart_of_quiet hinputs
  obtain ⟨-, -, hcur, hshut, -⟩ := exec_keeps_surroundings hexec
  rw [← hstart] at hop hexec
  rw [step_of_selected hrun (by rw [hnext]; rfl) hop hexec, finished, commitPrev, hshut, hcur]
  rfl

end

/-- A run of `a + b` steps is a run of `a` steps, and then of `b`. -/
theorem runSteps_add {a b : Nat} {s u : State} (h : runSteps a s = .next u) : runSteps (a + b) s = runSteps b u := by
  induction a generalizing s with
  | zero =>
    injection h with h
    rw [Nat.zero_add, h]
  | succ a ih =>
    obtain ⟨v, hv, hu⟩ := andThen_eq_next_iff.mp h
    rw [Nat.succ_add, runSteps, hv, andThen, ih hu]

/-! ### An idle line -/

/-- After `k` high iterations in Idle, with the inputs `is` to come, everything is as before but the state, its counter and
the reads. -/
def HighIterations (k : Nat) (is : List Input) (s t : State) : Prop :=
  t = { s with st := t.st, idleCnt := t.idleCnt, now := t.now, cur := t.cur, shut := t.shut, inputs := is,
               inputIdx := s.inputIdx + k }

theorem HighIterations.trans {j k : Nat} {is js : List Input} {s t u : State} (h : HighIterations j is s u)
    (h' : HighIterations k js u t) : HighIterations (j + k) js s t := by
  unfold HighIterations at h h' ⊢
  rw [h] at h'
  rw [← Nat.add_assoc]
  exact h'

/-- After a high read, a high iteration in Idle counts the pair, or arms the decoder with the pair that reaches the
threshold (spec/42_frame_alignment.md R101, R102). -/
theorem step_highIteration {s : State} {n : Tick} {is : List Input} (hrun : s.phase = .run) (hst : s.st = .idle)
    (hprev : s.prev = true) (hinputs : s.inputs = Input.quiet n true false :: is) :
    ∃ u, step s = .next u ∧ HighIterations 1 is s u ∧
      (s.idleCnt.toNat + 1 < s.cfg.idleThreshold → u.st = .idle ∧ u.idleCnt = s.idleCnt + 1) ∧
      (s.idleCnt.toNat + 1 ≥ s.cfg.idleThreshold → u.st = .await ∧ u.idleCnt = 0) := by
  have hop : decodeStep (sel (reading n true is s)) =
      .ok (if s.cfg.idleThreshold ≤ s.idleCnt.toNat + 1 then .idleArm else .idleCnt) :=
    (decode_sel_idle (s := reading n true is s) hst).trans (congrArg Except.ok (if_pos ⟨hprev, rfl⟩))
  rcases Nat.lt_or_ge (s.idleCnt.toNat + 1) s.cfg.idleThreshold with hlt | hge
  · rw [if_neg (Nat.not_le.mpr hlt)] at hop
    refine ⟨_, step_of_quiet hinputs hrun hop rfl, ?_, fun _ => ⟨hst, rfl⟩, fun hge => absurd hlt (Nat.not_lt.mpr hge)⟩
    rw [← hprev]
    rfl
  · rw [if_pos hge] at hop
    refine ⟨_, step_of_quiet hinputs hrun hop rfl, ?_, fun hlt => absurd hlt (Nat.not_lt.mpr hge), fun _ => ⟨rfl, rfl⟩⟩
    rw [← hprev]
    rfl

/-- High iterations from Idle count up to the threshold, and arm the decoder when they reach it. -/
theorem runSteps_highIterations (ticks : List Tick) (rest : List Input) {s : State} (hrun : s.phase = .run)
    (hst : s.st = .idle) (hprev : s.prev = true) (hmax : s.cfg.idleThreshold ≤ 2 ^ 32)
    (hmore : s.idleCnt.toNat < s.cfg.idleThreshold) (hfits : s.idleCnt.toNat + ticks.length ≤ s.cfg.idleThreshold)
    (hinputs : s.inputs = ticks.map (fun n => Input.quiet n true false) ++ rest) :
    ∃ t, runSteps ticks.length s = .next t ∧ HighIterations ticks.length rest s t ∧
      (s.idleCnt.toNat + ticks.length < s.cfg.idleThreshold →
        t.st = .idle ∧ t.idleCnt.toNat = s.idleCnt.toNat + ticks.length) ∧
      (s.idleCnt.toNat + ticks.length = s.cfg.idleThreshold → t.st = .await ∧ t.idleCnt = 0) := by
  induction ticks generalizing s with
  | nil =>
    rw [List.map_nil, List.nil_append] at hinputs
    subst hinputs
    exact ⟨s, rfl, rfl, fun _ => ⟨hst, rfl⟩, fun hfull => absurd hfull (Nat.ne_of_lt hmore)⟩
  | cons n ticks ih =>
    obtain ⟨u, hstep, hframe, hcount, harm⟩ := step_highIteration hrun hst hprev hinputs
    rw [List.length_cons] at *
    rw [runSteps, hstep, andThen, Nat.add_comm ticks.length]
    have hcfg : u.cfg = s.cfg := by rw [hframe]
    rcases Nat.lt_or_ge (s.idleCnt.toNat + 1) s.cfg.idleThreshold with hlt | hge
    · obtain ⟨hidle, hcnt⟩ := hcount hlt
      have hnat : u.idleCnt.toNat = s.idleCnt.toNat + 1 := by
        rw [hcnt]
        bv_omega
      obtain ⟨t, ht, hframe', hcount', harm'⟩ := ih (s := u) (by rw [hframe]; exact hrun) hidle (by rw [hframe]; exact hprev)
        (by rwa [hcfg]) (by rwa [hcfg, hnat]) (by rw [hcfg, hnat]; omega) (by rw [hframe]; rfl)
      rw [hcfg, hnat, Nat.add_assoc] at hcount' harm'
      exact ⟨t, ht, hframe.trans hframe', hcount', harm'⟩
    · obtain rfl : ticks = [] := List.eq_nil_of_length_eq_zero (by omega)
      exact ⟨u, rfl, hframe, fun hlt => absurd hlt (Nat.not_lt.mpr hge), fun _ => harm hge⟩

/-- Settles O51: `runSteps_highIterations` from a cleared counter. -/
theorem idleLineArmsAtTheThreshold : Obligations.IdleLineArmsAtTheThreshold := by
  intro s ticks rest hrun hst hprev hzero hpos hmax hlen hinputs
  have hcnt : s.idleCnt.toNat = 0 := by rw [hzero]; rfl
  have hline := runSteps_highIterations ticks rest hrun hst hprev hmax (by omega) (by omega) hinputs
  rw [hcnt, Nat.zero_add] at hline
  exact hline

/-! ### A frame -/

/-- From `s`, in ConfirmingStart, the start bit and `k` data bits of `byte` have been sampled, and the inputs `is` are to
come: no entry has been pushed yet, and the byte holds the low bits of `byte` (spec/43_accumulator.md R126). -/
structure MidFrame (s : State) (byte : Byte) (k : Nat) (is : List Input) (u : State) : Prop where
  phase : u.phase = .run
  cfg : u.cfg = s.cfg
  startTick : u.startTick = s.startTick
  lastByteTick : u.lastByteTick = s.lastByteTick
  tail : u.tail = s.tail
  mem : u.mem = s.mem
  events : u.events = s.events
  inputs : u.inputs = is
  st : u.st = if k < 8 then .data else .stop
  sampled : Sampled k u
  dataByte : u.dataByte.toNat = byte.toNat % 2 ^ k

/-- The sample of `OFFSET[k]` is due at the tick `n` (spec/40_timing_scheduler.md R84). -/
def DueAt (s : State) (k : Nat) (n : Tick) : Prop := ∃ o, s.cfg.offsets[k]? = some o ∧ o ≤ (n - s.startTick).toNat

section
variable {s u : State} {byte : Byte} {k : Nat} {n : Tick} {b : Bool} {is : List Input}

/-- A due start bit that reads low starts the data bits (spec/42_frame_alignment.md R107). -/
theorem step_startBit (hrun : s.phase = .run) (hst : s.st = .confirm) (hdue : DueAt s 0 n)
    (hinputs : s.inputs = Input.quiet n false false :: is) : ∃ u, step s = .next u ∧ MidFrame s byte 0 is u := by
  obtain ⟨o, ho, hle⟩ := hdue
  have hop : decodeStep (sel (reading n false is s)) = .ok .confOk := by
    rw [decode_sel_confirm (s := reading n false is s) hst,
      dueBit_of_due (dueIndex_confirm (s := reading n false is s) hst) ho hle]
    rfl
  exact ⟨_, step_of_quiet hinputs hrun hop rfl, hrun, rfl, rfl, rfl, rfl, rfl, rfl, rfl, rfl, ⟨rfl, rfl, Nat.one_pos⟩,
    (Nat.mod_one _).symm⟩

/-- Bit `k` of a byte, above the bits below it (spec/43_accumulator.md R121). -/
theorem mod_two_pow_succ_toNat (byte : Byte) (k : Nat) :
    byte.toNat % 2 ^ (k + 1) = byte.toNat % 2 ^ k + 2 ^ k * (byte.getLsbD k).toNat := by
  rw [Nat.mod_pow_succ, ← BitVec.testBit_toNat, Nat.toNat_testBit]

/-- A due data bit joins the byte; the eighth is the last (spec/43_accumulator.md R121, R122). -/
theorem step_dataBit (h : MidFrame s byte k (Input.quiet n (byte.getLsbD k) false :: is) u) (hk : k < 8)
    (hdue : DueAt s (k + 1) n) : ∃ u', step u = .next u' ∧ MidFrame s byte (k + 1) is u' := by
  obtain ⟨o, ho, hle⟩ := hdue
  obtain ⟨hindex, -, -⟩ := id h.sampled
  have hst : u.st = .data := h.st.trans (if_pos hk)
  have hdueBit : dueBit (reading n (byte.getLsbD k) is u) = true := by
    refine dueBit_of_due (dueIndex_data (s := reading n (byte.getLsbD k) is u) hst) (o := o) ?_ ?_
    · exact (congrArg₂ (fun c i => c.offsets[i]?) h.cfg hindex).trans ho
    · exact h.startTick ▸ hle
  have hop : decodeStep (sel (reading n (byte.getLsbD k) is u)) =
      .ok (if k = 7 then .dataLast (byte.getLsbD k) else .dataBit (byte.getLsbD k)) := by
    have hlast : u.bitIndex = 8 ↔ k = 7 := by
      rw [← BitVec.toNat_inj, hindex]
      exact Nat.succ_inj
    rw [decode_sel_data (s := reading n (byte.getLsbD k) is u) hst, hdueBit, if_pos rfl]
    exact congrArg Except.ok (if_congr hlast rfl rfl)
  have hsampled := sampleDataBit_sampled (byte.getLsbD k) hk h.sampled
  have hbyte := (sampleDataBit_dataByte_toNat (byte.getLsbD k) hk h.sampled).trans
    (by rw [h.dataByte, ← mod_two_pow_succ_toNat])
  split at hop
  next h7 =>
    exact ⟨_, step_of_quiet h.inputs h.phase hop rfl, h.phase, h.cfg, h.startTick, h.lastByteTick, h.tail, h.mem, h.events,
      rfl, (if_neg (by omega)).symm, hsampled, hbyte⟩
  next h7 =>
    exact ⟨_, step_of_quiet h.inputs h.phase hop rfl, h.phase, h.cfg, h.startTick, h.lastByteTick, h.tail, h.mem, h.events,
      rfl, hst.trans (if_pos (by omega)).symm, hsampled, hbyte⟩

/-- Whether an entry was pushed is asked of the configuration, the tail, memory and the events before it. -/
theorem pushesEntry_congr_left {v p : Half} {s s' t : State} (h : pushesEntry v p s' t) (hcfg : s'.cfg = s.cfg)
    (htail : s'.tail = s.tail) (hmem : s'.mem = s.mem) (hevents : s'.events = s.events) : pushesEntry v p s t := by
  rwa [pushesEntry, hcfg, htail, hmem, hevents] at h

/-- What the frame leaves: the decoder in AwaitingStart, and one entry pushed, with the interval for a high stop bit and 0
for a low one (spec/43_accumulator.md R128). -/
def FramePushed (s : State) (byte : Byte) (stop : Bool) (n : Tick) (is : List Input) (t : State) : Prop :=
  t.phase = .run ∧ t.st = .await ∧ t.prev = stop ∧ t.dataByte = byte ∧ t.inputs = is ∧
  pushesEntry (if stop then BitVec.ofNat 16 ((n - s.lastByteTick).toNat / s.cfg.intervalScale) else 0)
    (byte.setWidth 16) s t ∧
  t.lastByteTick = if stop then n else s.lastByteTick

/-- A due stop bit ends the frame (spec/43_accumulator.md R124, R125). -/
theorem step_stopBit {stop : Bool} (h : MidFrame s byte 8 (Input.quiet n stop false :: is) u) (hlegal : s.cfg.isLegal = true)
    (htail : s.tail.toNat < s.cfg.ringN) (hdue : DueAt s 9 n) : ∃ t, step u = .next t ∧ FramePushed s byte stop n is t := by
  obtain ⟨o, ho, hle⟩ := hdue
  have hst : u.st = .stop := h.st
  have hbyte : u.dataByte = byte := BitVec.eq_of_toNat_eq (h.dataByte.trans (Nat.mod_eq_of_lt byte.isLt))
  have hdueBit : dueBit (reading n stop is u) = true := by
    refine dueBit_of_due (dueIndex_stop (s := reading n stop is u) hst) (o := o) ?_ ?_
    · exact h.cfg ▸ ho
    · exact h.startTick ▸ hle
  have hop := decode_sel_stop (s := reading n stop is u) hst
  rw [hdueBit, if_pos rfl] at hop
  have hcfg : (reading n stop is u).cfg = s.cfg := h.cfg
  have hdata : (reading n stop is u).dataByte = byte := hbyte
  have hlast : (reading n stop is u).lastByteTick = s.lastByteTick := h.lastByteTick
  have hlegal' : (reading n stop is u).cfg.isLegal = true := by rwa [hcfg]
  have htail' : (reading n stop is u).tail.toNat < (reading n stop is u).cfg.ringN := by
    rw [hcfg]
    exact h.tail ▸ htail
  cases stop with
  | true =>
    obtain ⟨-, t, hexec, hentry, hframe, -⟩ := stopValidPushesInterval _ hlegal' htail'
    rw [hlast, hcfg, hdata] at hentry
    refine ⟨_, step_of_quiet h.inputs h.phase hop hexec, ?_, ?_, rfl, ?_, ?_, ?_, ?_⟩
    case refine_5 => exact pushesEntry_congr (pushesEntry_congr_left hentry hcfg h.tail h.mem h.events) rfl rfl rfl
    all_goals rw [hframe]
    · exact h.phase
    · exact hbyte
    · rfl
    · rfl
  | false =>
    obtain ⟨-, t, hexec, hentry, hframe⟩ := stopInvalidPushesSentinel _ hlegal' htail'
    rw [hdata] at hentry
    refine ⟨_, step_of_quiet h.inputs h.phase hop hexec, ?_, ?_, rfl, ?_, ?_, ?_, ?_⟩
    case refine_5 => exact pushesEntry_congr (pushesEntry_congr_left hentry hcfg h.tail h.mem h.events) rfl rfl rfl
    all_goals rw [hframe]
    · exact h.phase
    · exact hbyte
    · rfl
    · exact h.lastByteTick

end

/-- The eight data bits, one due sample after another. -/
theorem runSteps_dataBits {s u : State} {byte : Byte} {ticks : Nat → Tick} {is : List Input} {m k : Nat} (hm : k + m = 8)
    (hdue : ∀ j < 10, DueAt s j (ticks j))
    (h : MidFrame s byte k
      ((List.range' k m).map (fun j => Input.quiet (ticks (j + 1)) (byte.getLsbD j) false) ++ is) u) :
    ∃ u', runSteps m u = .next u' ∧ MidFrame s byte 8 is u' := by
  induction m generalizing k u with
  | zero =>
    obtain rfl : k = 8 := hm
    exact ⟨u, rfl, h⟩
  | succ m ih =>
    rw [List.range'_succ, List.map_cons, List.cons_append] at h
    obtain ⟨v, hv, hmid⟩ := step_dataBit h (by omega) (hdue (k + 1) (by omega))
    obtain ⟨u', hu', hdone⟩ := ih (by omega) hmid
    exact ⟨u', by rw [runSteps, hv, andThen, hu'], hdone⟩

/-- The inputs of a frame: the start bit, the data bits least-significant first, and the stop bit
(spec/30_encoding.md R70). -/
theorem frame_inputs (ticks : Nat → Tick) (byte : Byte) (stop : Bool) (rest : List Input) :
    (List.range 10).map (fun k => Input.quiet (ticks k) (cellLevel byte stop k) false) ++ rest =
      Input.quiet (ticks 0) false false ::
        ((List.range' 0 8).map (fun j => Input.quiet (ticks (j + 1)) (byte.getLsbD j) false) ++
          Input.quiet (ticks 9) stop false :: rest) := rfl

/-- Settles O52: the start bit, the eight data bits and the stop bit, one after another. -/
theorem frameOfDueSamplesPushesItsByte : Obligations.FrameOfDueSamplesPushesItsByte := by
  intro s ticks byte stop rest hlegal htail hrun hst hdue hinputs
  rw [frame_inputs] at hinputs
  obtain ⟨u, hu, hstart⟩ := step_startBit hrun hst (hdue 0 (by decide)) hinputs
  obtain ⟨v, hv, hdata⟩ := runSteps_dataBits (m := 8) rfl hdue hstart
  obtain ⟨t, ht, hpushed⟩ := step_stopBit hdata hlegal htail (hdue 9 (by decide))
  refine ⟨t, ?_, hpushed⟩
  calc runSteps 10 s = runSteps 9 u := by rw [runSteps, hu, andThen]
    _ = runSteps 1 v := runSteps_add (b := 1) hv
    _ = .next t := by rw [runSteps, ht, andThen, runSteps]

end Sys2Proof.Machine
end
